-- ==== Sys2Proof/Word.lean ====
section
/-!
DEFINITION. The words of the machine: bytes, 16-, 32- and 64-bit values, and the sparse store in which registers
and memory are kept (a list of number and value pairs, plain data).
-/

namespace Sys2Proof

/-- One byte of global memory or of program text (R17: 8 bits). -/
abbrev Byte := BitVec 8

/-- One half of a packed `.F16x2` operand (R46). -/
abbrev Half := BitVec 16

/-- A general register (R10: 32 bits). -/
abbrev Word := BitVec 32

/-- A register pair or an effective address (R12, R16). -/
abbrev DWord := BitVec 64

/-- A text: the bytes of a piece of assembly text, in the order they are written. -/
abbrev Text := List Byte

/-- Values of `w` bits kept by number. A number that is not listed reads zero. Its operations are in Machine/Ops.lean. -/
abbrev Store (w : Nat) := List (Nat × BitVec w)

end Sys2Proof
end

