-- ==== Sys2Proof/Syntax.lean ====
section
/-!
DEFINITION. The instructions: the operands and fields of R50 to R75, the instruction record of R75, and the
inductive `Instr` with one constructor for each of the 102 rows of spec/opcode_table.json (34 operation and size pairs, R62,
in the three forms RI, ABS and SP; for CAS the same three forms, R52, R54, R56).
-/

namespace Sys2Proof

/-- The name of a general register: R0, R1, ... (R10) or RZ (R11). -/
inductive Reg where
  | r (n : Nat)
  | rz
deriving DecidableEq, Repr

/-- The name of a predicate register: P0 to P6 or PT (R14). -/
inductive PredReg where
  | p (k : Fin 7)
  | pt
deriving DecidableEq, Repr

/-- The predicate's number: k for Pk, 7 for PT (R14). -/
def PredReg.number : PredReg → Nat
  | .p k => k.val
  | .pt => 7

/-- The guard of R57: `@Pg` or `@!Pg`. -/
structure Guard where
  neg : Bool
  pg : PredReg
deriving DecidableEq, Repr

/-- An instruction without a guard is guarded by `@PT` (R57). -/
def Guard.always : Guard := { neg := false, pg := .pt }

/-- The four opex annotations of R72, which no rule of execution reads (R183). `req` is the set of requested
scoreboards, one bit each for six scoreboards. -/
structure Opex where
  req : BitVec 6
  rdSb : Option Nat
  wrSb : Option Nat
  sched : Option Nat
deriving DecidableEq, Repr

/-- No annotation written. -/
def Opex.none : Opex := { req := 0#6, rdSb := Option.none, wrSb := Option.none, sched := Option.none }

/-- What every form of ATOM has beside its operation, size and operands: the guard (R57), `.E` (R58), the opex (R72). -/
structure Common where
  guard : Guard
  e : Bool
  opex : Opex
deriving DecidableEq, Repr

/-- The eleven operations of R59. -/
inductive Op where
  | add | min | max | inc | dec | and | or | xor | exch | safeAdd | cas
deriving DecidableEq, Repr

/-- The seven sizes of R60. -/
inductive Sz where
  | u32 | s32 | u64 | s64 | f32 | f16x2 | f64
deriving DecidableEq, Repr

/-- The access size in bytes of R31. -/
def Sz.bytes : Sz → Nat
  | .u32 | .s32 | .f32 | .f16x2 => 4
  | .u64 | .s64 | .f64 => 8

/-- The address operand of each form: `[Ra + ImmS20]` (R51), `[ImmU20]` (R53), `[Ra]` with Ps (R55). -/
inductive Addr where
  | ri (ra : Reg) (imm20 : BitVec 20)
  | abs (imm20 : BitVec 20)
  | sp (ps : PredReg) (ra : Reg)
deriving DecidableEq, Repr

/-- The instruction record of R75. -/
structure AtomInstr where
  common : Common
  op : Op
  sz : Sz
  addr : Addr
  rd : Reg
  rb : Reg
  rc : Reg
deriving DecidableEq, Repr

/-- The legal (operation, size) pairs: the table of R62. -/
def legalPair : Op → Sz → Bool
  | .add, .u32 | .add, .s32 | .add, .u64 | .add, .f32 | .add, .f16x2 | .add, .f64 => true
  | .min, .u32 | .min, .s32 | .min, .u64 | .min, .s64 | .min, .f16x2 => true
  | .max, .u32 | .max, .s32 | .max, .u64 | .max, .s64 | .max, .f16x2 => true
  | .inc, .u32 | .dec, .u32 => true
  | .and, .u32 | .and, .s32 | .and, .u64 => true
  | .or, .u32 | .or, .s32 | .or, .u64 => true
  | .xor, .u32 | .xor, .s32 | .xor, .u64 => true
  | .exch, .u32 | .exch, .s32 | .exch, .u64 => true
  | .safeAdd, .u64 => true
  | .cas, .u32 | .cas, .s32 | .cas, .u64 => true
  | _, _ => false

/-- The pairs the table stars, which need SPA 3.5 or higher (R63). -/
def starredPair : Op → Sz → Bool
  | .min, .u64 | .min, .s64 | .max, .u64 | .max, .s64 => true
  | .and, .u64 | .or, .u64 | .xor, .u64 | .safeAdd, .u64 => true
  | _, _ => false

/-- The instructions: one constructor for each row of spec/opcode_table.json. -/
inductive Instr where
  /-- ATOM.ADD.U32, form ATOM_RI (R101). -/
  | addU32Ri (c : Common) (rd ra : Reg) (imm : BitVec 20) (rb : Reg)
  /-- ATOM.ADD.U32, form ATOM_ABS (R101). -/
  | addU32Abs (c : Common) (rd : Reg) (imm : BitVec 20) (rb : Reg)
  /-- ATOM.ADD.U32, form ATOM_SP (R101). -/
  | addU32Sp (c : Common) (ps : PredReg) (rd ra rb : Reg)
  /-- ATOM.ADD.S32, form ATOM_RI (R102). -/
  | addS32Ri (c : Common) (rd ra : Reg) (imm : BitVec 20) (rb : Reg)
  /-- ATOM.ADD.S32, form ATOM_ABS (R102). -/
  | addS32Abs (c : Common) (rd : Reg) (imm : BitVec 20) (rb : Reg)
  /-- ATOM.ADD.S32, form ATOM_SP (R102). -/
  | addS32Sp (c : Common) (ps : PredReg) (rd ra rb : Reg)
  /-- ATOM.ADD.U64, form ATOM_RI (R103). -/
  | addU64Ri (c : Common) (rd ra : Reg) (imm : BitVec 20) (rb : Reg)
  /-- ATOM.ADD.U64, form ATOM_ABS (R103). -/
  | addU64Abs (c : Common) (rd : Reg) (imm : BitVec 20) (rb : Reg)
  /-- ATOM.ADD.U64, form ATOM_SP (R103). -/
  | addU64Sp (c : Common) (ps : PredReg) (rd ra rb : Reg)
  /-- ATOM.ADD.F32.FTZ.RN, form ATOM_RI (R104). -/
  | addF32Ri (c : Common) (rd ra : Reg) (imm : BitVec 20) (rb : Reg)
  /-- ATOM.ADD.F32.FTZ.RN, form ATOM_ABS (R104). -/
  | addF32Abs (c : Common) (rd : Reg) (imm : BitVec 20) (rb : Reg)
  /-- ATOM.ADD.F32.FTZ.RN, form ATOM_SP (R104). -/
  | addF32Sp (c : Common) (ps : PredReg) (rd ra rb : Reg)
  /-- ATOM.ADD.F16x2.RN, form ATOM_RI (R105). -/
  | addF16x2Ri (c : Common) (rd ra : Reg) (imm : BitVec 20) (rb : Reg)
  /-- ATOM.ADD.F16x2.RN, form ATOM_ABS (R105). -/
  | addF16x2Abs (c : Common) (rd : Reg) (imm : BitVec 20) (rb : Reg)
  /-- ATOM.ADD.F16x2.RN, form ATOM_SP (R105). -/
  | addF16x2Sp (c : Common) (ps : PredReg) (rd ra rb : Reg)
  /-- ATOM.ADD.F64.RN, form ATOM_RI (R106). -/
  | addF64Ri (c : Common) (rd ra : Reg) (imm : BitVec 20) (rb : Reg)
  /-- ATOM.ADD.F64.RN, form ATOM_ABS (R106). -/
  | addF64Abs (c : Common) (rd : Reg) (imm : BitVec 20) (rb : Reg)
  /-- ATOM.ADD.F64.RN, form ATOM_SP (R106). -/
  | addF64Sp (c : Common) (ps : PredReg) (rd ra rb : Reg)
  /-- ATOM.MIN.U32, form ATOM_RI (R107). -/
  | minU32Ri (c : Common) (rd ra : Reg) (imm : BitVec 20) (rb : Reg)
  /-- ATOM.MIN.U32, form ATOM_ABS (R107). -/
  | minU32Abs (c : Common) (rd : Reg) (imm : BitVec 20) (rb : Reg)
  /-- ATOM.MIN.U32, form ATOM_SP (R107). -/
  | minU32Sp (c : Common) (ps : PredReg) (rd ra rb : Reg)
  /-- ATOM.MIN.S32, form ATOM_RI (R108). -/
  | minS32Ri (c : Common) (rd ra : Reg) (imm : BitVec 20) (rb : Reg)
  /-- ATOM.MIN.S32, form ATOM_ABS (R108). -/
  | minS32Abs (c : Common) (rd : Reg) (imm : BitVec 20) (rb : Reg)
  /-- ATOM.MIN.S32, form ATOM_SP (R108). -/
  | minS32Sp (c : Common) (ps : PredReg) (rd ra rb : Reg)
  /-- ATOM.MIN.U64, form ATOM_RI (R109). -/
  | minU64Ri (c : Common) (rd ra : Reg) (imm : BitVec 20) (rb : Reg)
  /-- ATOM.MIN.U64, form ATOM_ABS (R109). -/
  | minU64Abs (c : Common) (rd : Reg) (imm : BitVec 20) (rb : Reg)
  /-- ATOM.MIN.U64, form ATOM_SP (R109). -/
  | minU64Sp (c : Common) (ps : PredReg) (rd ra rb : Reg)
  /-- ATOM.MIN.S64, form ATOM_RI (R110). -/
  | minS64Ri (c : Common) (rd ra : Reg) (imm : BitVec 20) (rb : Reg)
  /-- ATOM.MIN.S64, form ATOM_ABS (R110). -/
  | minS64Abs (c : Common) (rd : Reg) (imm : BitVec 20) (rb : Reg)
  /-- ATOM.MIN.S64, form ATOM_SP (R110). -/
  | minS64Sp (c : Common) (ps : PredReg) (rd ra rb : Reg)
  /-- ATOM.MIN.F16x2.RN, form ATOM_RI (R111). -/
  | minF16x2Ri (c : Common) (rd ra : Reg) (imm : BitVec 20) (rb : Reg)
  /-- ATOM.MIN.F16x2.RN, form ATOM_ABS (R111). -/
  | minF16x2Abs (c : Common) (rd : Reg) (imm : BitVec 20) (rb : Reg)
  /-- ATOM.MIN.F16x2.RN, form ATOM_SP (R111). -/
  | minF16x2Sp (c : Common) (ps : PredReg) (rd ra rb : Reg)
  /-- ATOM.MAX.U32, form ATOM_RI (R112). -/
  | maxU32Ri (c : Common) (rd ra : Reg) (imm : BitVec 20) (rb : Reg)
  /-- ATOM.MAX.U32, form ATOM_ABS (R112). -/
  | maxU32Abs (c : Common) (rd : Reg) (imm : BitVec 20) (rb : Reg)
  /-- ATOM.MAX.U32, form ATOM_SP (R112). -/
  | maxU32Sp (c : Common) (ps : PredReg) (rd ra rb : Reg)
  /-- ATOM.MAX.S32, form ATOM_RI (R113). -/
  | maxS32Ri (c : Common) (rd ra : Reg) (imm : BitVec 20) (rb : Reg)
  /-- ATOM.MAX.S32, form ATOM_ABS (R113). -/
  | maxS32Abs (c : Common) (rd : Reg) (imm : BitVec 20) (rb : Reg)
  /-- ATOM.MAX.S32, form ATOM_SP (R113). -/
  | maxS32Sp (c : Common) (ps : PredReg) (rd ra rb : Reg)
  /-- ATOM.MAX.U64, form ATOM_RI (R114). -/
  | maxU64Ri (c : Common) (rd ra : Reg) (imm : BitVec 20) (rb : Reg)
  /-- ATOM.MAX.U64, form ATOM_ABS (R114). -/
  | maxU64Abs (c : Common) (rd : Reg) (imm : BitVec 20) (rb : Reg)
  /-- ATOM.MAX.U64, form ATOM_SP (R114). -/
  | maxU64Sp (c : Common) (ps : PredReg) (rd ra rb : Reg)
  /-- ATOM.MAX.S64, form ATOM_RI (R115). -/
  | maxS64Ri (c : Common) (rd ra : Reg) (imm : BitVec 20) (rb : Reg)
  /-- ATOM.MAX.S64, form ATOM_ABS (R115). -/
  | maxS64Abs (c : Common) (rd : Reg) (imm : BitVec 20) (rb : Reg)
  /-- ATOM.MAX.S64, form ATOM_SP (R115). -/
  | maxS64Sp (c : Common) (ps : PredReg) (rd ra rb : Reg)
  /-- ATOM.MAX.F16x2.RN, form ATOM_RI (R116). -/
  | maxF16x2Ri (c : Common) (rd ra : Reg) (imm : BitVec 20) (rb : Reg)
  /-- ATOM.MAX.F16x2.RN, form ATOM_ABS (R116). -/
  | maxF16x2Abs (c : Common) (rd : Reg) (imm : BitVec 20) (rb : Reg)
  /-- ATOM.MAX.F16x2.RN, form ATOM_SP (R116). -/
  | maxF16x2Sp (c : Common) (ps : PredReg) (rd ra rb : Reg)
  /-- ATOM.INC.U32, form ATOM_RI (R117). -/
  | incU32Ri (c : Common) (rd ra : Reg) (imm : BitVec 20) (rb : Reg)
  /-- ATOM.INC.U32, form ATOM_ABS (R117). -/
  | incU32Abs (c : Common) (rd : Reg) (imm : BitVec 20) (rb : Reg)
  /-- ATOM.INC.U32, form ATOM_SP (R117). -/
  | incU32Sp (c : Common) (ps : PredReg) (rd ra rb : Reg)
  /-- ATOM.DEC.U32, form ATOM_RI (R118). -/
  | decU32Ri (c : Common) (rd ra : Reg) (imm : BitVec 20) (rb : Reg)
  /-- ATOM.DEC.U32, form ATOM_ABS (R118). -/
  | decU32Abs (c : Common) (rd : Reg) (imm : BitVec 20) (rb : Reg)
  /-- ATOM.DEC.U32, form ATOM_SP (R118). -/
  | decU32Sp (c : Common) (ps : PredReg) (rd ra rb : Reg)
  /-- ATOM.AND.U32, form ATOM_RI (R119). -/
  | andU32Ri (c : Common) (rd ra : Reg) (imm : BitVec 20) (rb : Reg)
  /-- ATOM.AND.U32, form ATOM_ABS (R119). -/
  | andU32Abs (c : Common) (rd : Reg) (imm : BitVec 20) (rb : Reg)
  /-- ATOM.AND.U32, form ATOM_SP (R119). -/
  | andU32Sp (c : Common) (ps : PredReg) (rd ra rb : Reg)
  /-- ATOM.AND.S32, form ATOM_RI (R120). -/
  | andS32Ri (c : Common) (rd ra : Reg) (imm : BitVec 20) (rb : Reg)
  /-- ATOM.AND.S32, form ATOM_ABS (R120). -/
  | andS32Abs (c : Common) (rd : Reg) (imm : BitVec 20) (rb : Reg)
  /-- ATOM.AND.S32, form ATOM_SP (R120). -/
  | andS32Sp (c : Common) (ps : PredReg) (rd ra rb : Reg)
  /-- ATOM.AND.U64, form ATOM_RI (R121). -/
  | andU64Ri (c : Common) (rd ra : Reg) (imm : BitVec 20) (rb : Reg)
  /-- ATOM.AND.U64, form ATOM_ABS (R121). -/
  | andU64Abs (c : Common) (rd : Reg) (imm : BitVec 20) (rb : Reg)
  /-- ATOM.AND.U64, form ATOM_SP (R121). -/
  | andU64Sp (c : Common) (ps : PredReg) (rd ra rb : Reg)
  /-- ATOM.OR.U32, form ATOM_RI (R122). -/
  | orU32Ri (c : Common) (rd ra : Reg) (imm : BitVec 20) (rb : Reg)
  /-- ATOM.OR.U32, form ATOM_ABS (R122). -/
  | orU32Abs (c : Common) (rd : Reg) (imm : BitVec 20) (rb : Reg)
  /-- ATOM.OR.U32, form ATOM_SP (R122). -/
  | orU32Sp (c : Common) (ps : PredReg) (rd ra rb : Reg)
  /-- ATOM.OR.S32, form ATOM_RI (R123). -/
  | orS32Ri (c : Common) (rd ra : Reg) (imm : BitVec 20) (rb : Reg)
  /-- ATOM.OR.S32, form ATOM_ABS (R123). -/
  | orS32Abs (c : Common) (rd : Reg) (imm : BitVec 20) (rb : Reg)
  /-- ATOM.OR.S32, form ATOM_SP (R123). -/
  | orS32Sp (c : Common) (ps : PredReg) (rd ra rb : Reg)
  /-- ATOM.OR.U64, form ATOM_RI (R124). -/
  | orU64Ri (c : Common) (rd ra : Reg) (imm : BitVec 20) (rb : Reg)
  /-- ATOM.OR.U64, form ATOM_ABS (R124). -/
  | orU64Abs (c : Common) (rd : Reg) (imm : BitVec 20) (rb : Reg)
  /-- ATOM.OR.U64, form ATOM_SP (R124). -/
  | orU64Sp (c : Common) (ps : PredReg) (rd ra rb : Reg)
  /-- ATOM.XOR.U32, form ATOM_RI (R125). -/
  | xorU32Ri (c : Common) (rd ra : Reg) (imm : BitVec 20) (rb : Reg)
  /-- ATOM.XOR.U32, form ATOM_ABS (R125). -/
  | xorU32Abs (c : Common) (rd : Reg) (imm : BitVec 20) (rb : Reg)
  /-- ATOM.XOR.U32, form ATOM_SP (R125). -/
  | xorU32Sp (c : Common) (ps : PredReg) (rd ra rb : Reg)
  /-- ATOM.XOR.S32, form ATOM_RI (R126). -/
  | xorS32Ri (c : Common) (rd ra : Reg) (imm : BitVec 20) (rb : Reg)
  /-- ATOM.XOR.S32, form ATOM_ABS (R126). -/
  | xorS32Abs (c : Common) (rd : Reg) (imm : BitVec 20) (rb : Reg)
  /-- ATOM.XOR.S32, form ATOM_SP (R126). -/
  | xorS32Sp (c : Common) (ps : PredReg) (rd ra rb : Reg)
  /-- ATOM.XOR.U64, form ATOM_RI (R127). -/
  | xorU64Ri (c : Common) (rd ra : Reg) (imm : BitVec 20) (rb : Reg)
  /-- ATOM.XOR.U64, form ATOM_ABS (R127). -/
  | xorU64Abs (c : Common) (rd : Reg) (imm : BitVec 20) (rb : Reg)
  /-- ATOM.XOR.U64, form ATOM_SP (R127). -/
  | xorU64Sp (c : Common) (ps : PredReg) (rd ra rb : Reg)
  /-- ATOM.EXCH.U32, form ATOM_RI (R128). -/
  | exchU32Ri (c : Common) (rd ra : Reg) (imm : BitVec 20) (rb : Reg)
  /-- ATOM.EXCH.U32, form ATOM_ABS (R128). -/
  | exchU32Abs (c : Common) (rd : Reg) (imm : BitVec 20) (rb : Reg)
  /-- ATOM.EXCH.U32, form ATOM_SP (R128). -/
  | exchU32Sp (c : Common) (ps : PredReg) (rd ra rb : Reg)
  /-- ATOM.EXCH.S32, form ATOM_RI (R129). -/
  | exchS32Ri (c : Common) (rd ra : Reg) (imm : BitVec 20) (rb : Reg)
  /-- ATOM.EXCH.S32, form ATOM_ABS (R129). -/
  | exchS32Abs (c : Common) (rd : Reg) (imm : BitVec 20) (rb : Reg)
  /-- ATOM.EXCH.S32, form ATOM_SP (R129). -/
  | exchS32Sp (c : Common) (ps : PredReg) (rd ra rb : Reg)
  /-- ATOM.EXCH.U64, form ATOM_RI (R130). -/
  | exchU64Ri (c : Common) (rd ra : Reg) (imm : BitVec 20) (rb : Reg)
  /-- ATOM.EXCH.U64, form ATOM_ABS (R130). -/
  | exchU64Abs (c : Common) (rd : Reg) (imm : BitVec 20) (rb : Reg)
  /-- ATOM.EXCH.U64, form ATOM_SP (R130). -/
  | exchU64Sp (c : Common) (ps : PredReg) (rd ra rb : Reg)
  /-- ATOM.SAFEADD.U64, form ATOM_RI (R131). -/
  | safeAddU64Ri (c : Common) (rd ra : Reg) (imm : BitVec 20) (rb : Reg)
  /-- ATOM.SAFEADD.U64, form ATOM_ABS (R131). -/
  | safeAddU64Abs (c : Common) (rd : Reg) (imm : BitVec 20) (rb : Reg)
  /-- ATOM.SAFEADD.U64, form ATOM_SP (R131). -/
  | safeAddU64Sp (c : Common) (ps : PredReg) (rd ra rb : Reg)
  /-- ATOM.CAS.U32, form CAS_RI (R141). -/
  | casU32Ri (c : Common) (rd ra : Reg) (imm : BitVec 20) (rb rc : Reg)
  /-- ATOM.CAS.U32, form CAS_ABS (R141). -/
  | casU32Abs (c : Common) (rd : Reg) (imm : BitVec 20) (rb rc : Reg)
  /-- ATOM.CAS.U32, form CAS_SP (R141). -/
  | casU32Sp (c : Common) (ps : PredReg) (rd ra rb rc : Reg)
  /-- ATOM.CAS.S32, form CAS_RI (R142). -/
  | casS32Ri (c : Common) (rd ra : Reg) (imm : BitVec 20) (rb rc : Reg)
  /-- ATOM.CAS.S32, form CAS_ABS (R142). -/
  | casS32Abs (c : Common) (rd : Reg) (imm : BitVec 20) (rb rc : Reg)
  /-- ATOM.CAS.S32, form CAS_SP (R142). -/
  | casS32Sp (c : Common) (ps : PredReg) (rd ra rb rc : Reg)
  /-- ATOM.CAS.U64, form CAS_RI (R143). -/
  | casU64Ri (c : Common) (rd ra : Reg) (imm : BitVec 20) (rb rc : Reg)
  /-- ATOM.CAS.U64, form CAS_ABS (R143). -/
  | casU64Abs (c : Common) (rd : Reg) (imm : BitVec 20) (rb rc : Reg)
  /-- ATOM.CAS.U64, form CAS_SP (R143). -/
  | casU64Sp (c : Common) (ps : PredReg) (rd ra rb rc : Reg)
deriving DecidableEq, Repr

/-- The record of R75 that an instruction stands for. Rc is RZ unless the operation is CAS (R68). -/
def Instr.record : Instr → AtomInstr
  | .addU32Ri c rd ra imm rb => ⟨c, .add, .u32, (.ri ra imm), rd, rb, .rz⟩
  | .addU32Abs c rd imm rb => ⟨c, .add, .u32, (.abs imm), rd, rb, .rz⟩
  | .addU32Sp c ps rd ra rb => ⟨c, .add, .u32, (.sp ps ra), rd, rb, .rz⟩
  | .addS32Ri c rd ra imm rb => ⟨c, .add, .s32, (.ri ra imm), rd, rb, .rz⟩
  | .addS32Abs c rd imm rb => ⟨c, .add, .s32, (.abs imm), rd, rb, .rz⟩
  | .addS32Sp c ps rd ra rb => ⟨c, .add, .s32, (.sp ps ra), rd, rb, .rz⟩
  | .addU64Ri c rd ra imm rb => ⟨c, .add, .u64, (.ri ra imm), rd, rb, .rz⟩
  | .addU64Abs c rd imm rb => ⟨c, .add, .u64, (.abs imm), rd, rb, .rz⟩
  | .addU64Sp c ps rd ra rb => ⟨c, .add, .u64, (.sp ps ra), rd, rb, .rz⟩
  | .addF32Ri c rd ra imm rb => ⟨c, .add, .f32, (.ri ra imm), rd, rb, .rz⟩
  | .addF32Abs c rd imm rb => ⟨c, .add, .f32, (.abs imm), rd, rb, .rz⟩
  | .addF32Sp c ps rd ra rb => ⟨c, .add, .f32, (.sp ps ra), rd, rb, .rz⟩
  | .addF16x2Ri c rd ra imm rb => ⟨c, .add, .f16x2, (.ri ra imm), rd, rb, .rz⟩
  | .addF16x2Abs c rd imm rb => ⟨c, .add, .f16x2, (.abs imm), rd, rb, .rz⟩
  | .addF16x2Sp c ps rd ra rb => ⟨c, .add, .f16x2, (.sp ps ra), rd, rb, .rz⟩
  | .addF64Ri c rd ra imm rb => ⟨c, .add, .f64, (.ri ra imm), rd, rb, .rz⟩
  | .addF64Abs c rd imm rb => ⟨c, .add, .f64, (.abs imm), rd, rb, .rz⟩
  | .addF64Sp c ps rd ra rb => ⟨c, .add, .f64, (.sp ps ra), rd, rb, .rz⟩
  | .minU32Ri c rd ra imm rb => ⟨c, .min, .u32, (.ri ra imm), rd, rb, .rz⟩
  | .minU32Abs c rd imm rb => ⟨c, .min, .u32, (.abs imm), rd, rb, .rz⟩
  | .minU32Sp c ps rd ra rb => ⟨c, .min, .u32, (.sp ps ra), rd, rb, .rz⟩
  | .minS32Ri c rd ra imm rb => ⟨c, .min, .s32, (.ri ra imm), rd, rb, .rz⟩
  | .minS32Abs c rd imm rb => ⟨c, .min, .s32, (.abs imm), rd, rb, .rz⟩
  | .minS32Sp c ps rd ra rb => ⟨c, .min, .s32, (.sp ps ra), rd, rb, .rz⟩
  | .minU64Ri c rd ra imm rb => ⟨c, .min, .u64, (.ri ra imm), rd, rb, .rz⟩
  | .minU64Abs c rd imm rb => ⟨c, .min, .u64, (.abs imm), rd, rb, .rz⟩
  | .minU64Sp c ps rd ra rb => ⟨c, .min, .u64, (.sp ps ra), rd, rb, .rz⟩
  | .minS64Ri c rd ra imm rb => ⟨c, .min, .s64, (.ri ra imm), rd, rb, .rz⟩
  | .minS64Abs c rd imm rb => ⟨c, .min, .s64, (.abs imm), rd, rb, .rz⟩
  | .minS64Sp c ps rd ra rb => ⟨c, .min, .s64, (.sp ps ra), rd, rb, .rz⟩
  | .minF16x2Ri c rd ra imm rb => ⟨c, .min, .f16x2, (.ri ra imm), rd, rb, .rz⟩
  | .minF16x2Abs c rd imm rb => ⟨c, .min, .f16x2, (.abs imm), rd, rb, .rz⟩
  | .minF16x2Sp c ps rd ra rb => ⟨c, .min, .f16x2, (.sp ps ra), rd, rb, .rz⟩
  | .maxU32Ri c rd ra imm rb => ⟨c, .max, .u32, (.ri ra imm), rd, rb, .rz⟩
  | .maxU32Abs c rd imm rb => ⟨c, .max, .u32, (.abs imm), rd, rb, .rz⟩
  | .maxU32Sp c ps rd ra rb => ⟨c, .max, .u32, (.sp ps ra), rd, rb, .rz⟩
  | .maxS32Ri c rd ra imm rb => ⟨c, .max, .s32, (.ri ra imm), rd, rb, .rz⟩
  | .maxS32Abs c rd imm rb => ⟨c, .max, .s32, (.abs imm), rd, rb, .rz⟩
  | .maxS32Sp c ps rd ra rb => ⟨c, .max, .s32, (.sp ps ra), rd, rb, .rz⟩
  | .maxU64Ri c rd ra imm rb => ⟨c, .max, .u64, (.ri ra imm), rd, rb, .rz⟩
  | .maxU64Abs c rd imm rb => ⟨c, .max, .u64, (.abs imm), rd, rb, .rz⟩
  | .maxU64Sp c ps rd ra rb => ⟨c, .max, .u64, (.sp ps ra), rd, rb, .rz⟩
  | .maxS64Ri c rd ra imm rb => ⟨c, .max, .s64, (.ri ra imm), rd, rb, .rz⟩
  | .maxS64Abs c rd imm rb => ⟨c, .max, .s64, (.abs imm), rd, rb, .rz⟩
  | .maxS64Sp c ps rd ra rb => ⟨c, .max, .s64, (.sp ps ra), rd, rb, .rz⟩
  | .maxF16x2Ri c rd ra imm rb => ⟨c, .max, .f16x2, (.ri ra imm), rd, rb, .rz⟩
  | .maxF16x2Abs c rd imm rb => ⟨c, .max, .f16x2, (.abs imm), rd, rb, .rz⟩
  | .maxF16x2Sp c ps rd ra rb => ⟨c, .max, .f16x2, (.sp ps ra), rd, rb, .rz⟩
  | .incU32Ri c rd ra imm rb => ⟨c, .inc, .u32, (.ri ra imm), rd, rb, .rz⟩
  | .incU32Abs c rd imm rb => ⟨c, .inc, .u32, (.abs imm), rd, rb, .rz⟩
  | .incU32Sp c ps rd ra rb => ⟨c, .inc, .u32, (.sp ps ra), rd, rb, .rz⟩
  | .decU32Ri c rd ra imm rb => ⟨c, .dec, .u32, (.ri ra imm), rd, rb, .rz⟩
  | .decU32Abs c rd imm rb => ⟨c, .dec, .u32, (.abs imm), rd, rb, .rz⟩
  | .decU32Sp c ps rd ra rb => ⟨c, .dec, .u32, (.sp ps ra), rd, rb, .rz⟩
  | .andU32Ri c rd ra imm rb => ⟨c, .and, .u32, (.ri ra imm), rd, rb, .rz⟩
  | .andU32Abs c rd imm rb => ⟨c, .and, .u32, (.abs imm), rd, rb, .rz⟩
  | .andU32Sp c ps rd ra rb => ⟨c, .and, .u32, (.sp ps ra), rd, rb, .rz⟩
  | .andS32Ri c rd ra imm rb => ⟨c, .and, .s32, (.ri ra imm), rd, rb, .rz⟩
  | .andS32Abs c rd imm rb => ⟨c, .and, .s32, (.abs imm), rd, rb, .rz⟩
  | .andS32Sp c ps rd ra rb => ⟨c, .and, .s32, (.sp ps ra), rd, rb, .rz⟩
  | .andU64Ri c rd ra imm rb => ⟨c, .and, .u64, (.ri ra imm), rd, rb, .rz⟩
  | .andU64Abs c rd imm rb => ⟨c, .and, .u64, (.abs imm), rd, rb, .rz⟩
  | .andU64Sp c ps rd ra rb => ⟨c, .and, .u64, (.sp ps ra), rd, rb, .rz⟩
  | .orU32Ri c rd ra imm rb => ⟨c, .or, .u32, (.ri ra imm), rd, rb, .rz⟩
  | .orU32Abs c rd imm rb => ⟨c, .or, .u32, (.abs imm), rd, rb, .rz⟩
  | .orU32Sp c ps rd ra rb => ⟨c, .or, .u32, (.sp ps ra), rd, rb, .rz⟩
  | .orS32Ri c rd ra imm rb => ⟨c, .or, .s32, (.ri ra imm), rd, rb, .rz⟩
  | .orS32Abs c rd imm rb => ⟨c, .or, .s32, (.abs imm), rd, rb, .rz⟩
  | .orS32Sp c ps rd ra rb => ⟨c, .or, .s32, (.sp ps ra), rd, rb, .rz⟩
  | .orU64Ri c rd ra imm rb => ⟨c, .or, .u64, (.ri ra imm), rd, rb, .rz⟩
  | .orU64Abs c rd imm rb => ⟨c, .or, .u64, (.abs imm), rd, rb, .rz⟩
  | .orU64Sp c ps rd ra rb => ⟨c, .or, .u64, (.sp ps ra), rd, rb, .rz⟩
  | .xorU32Ri c rd ra imm rb => ⟨c, .xor, .u32, (.ri ra imm), rd, rb, .rz⟩
  | .xorU32Abs c rd imm rb => ⟨c, .xor, .u32, (.abs imm), rd, rb, .rz⟩
  | .xorU32Sp c ps rd ra rb => ⟨c, .xor, .u32, (.sp ps ra), rd, rb, .rz⟩
  | .xorS32Ri c rd ra imm rb => ⟨c, .xor, .s32, (.ri ra imm), rd, rb, .rz⟩
  | .xorS32Abs c rd imm rb => ⟨c, .xor, .s32, (.abs imm), rd, rb, .rz⟩
  | .xorS32Sp c ps rd ra rb => ⟨c, .xor, .s32, (.sp ps ra), rd, rb, .rz⟩
  | .xorU64Ri c rd ra imm rb => ⟨c, .xor, .u64, (.ri ra imm), rd, rb, .rz⟩
  | .xorU64Abs c rd imm rb => ⟨c, .xor, .u64, (.abs imm), rd, rb, .rz⟩
  | .xorU64Sp c ps rd ra rb => ⟨c, .xor, .u64, (.sp ps ra), rd, rb, .rz⟩
  | .exchU32Ri c rd ra imm rb => ⟨c, .exch, .u32, (.ri ra imm), rd, rb, .rz⟩
  | .exchU32Abs c rd imm rb => ⟨c, .exch, .u32, (.abs imm), rd, rb, .rz⟩
  | .exchU32Sp c ps rd ra rb => ⟨c, .exch, .u32, (.sp ps ra), rd, rb, .rz⟩
  | .exchS32Ri c rd ra imm rb => ⟨c, .exch, .s32, (.ri ra imm), rd, rb, .rz⟩
  | .exchS32Abs c rd imm rb => ⟨c, .exch, .s32, (.abs imm), rd, rb, .rz⟩
  | .exchS32Sp c ps rd ra rb => ⟨c, .exch, .s32, (.sp ps ra), rd, rb, .rz⟩
  | .exchU64Ri c rd ra imm rb => ⟨c, .exch, .u64, (.ri ra imm), rd, rb, .rz⟩
  | .exchU64Abs c rd imm rb => ⟨c, .exch, .u64, (.abs imm), rd, rb, .rz⟩
  | .exchU64Sp c ps rd ra rb => ⟨c, .exch, .u64, (.sp ps ra), rd, rb, .rz⟩
  | .safeAddU64Ri c rd ra imm rb => ⟨c, .safeAdd, .u64, (.ri ra imm), rd, rb, .rz⟩
  | .safeAddU64Abs c rd imm rb => ⟨c, .safeAdd, .u64, (.abs imm), rd, rb, .rz⟩
  | .safeAddU64Sp c ps rd ra rb => ⟨c, .safeAdd, .u64, (.sp ps ra), rd, rb, .rz⟩
  | .casU32Ri c rd ra imm rb rc => ⟨c, .cas, .u32, (.ri ra imm), rd, rb, rc⟩
  | .casU32Abs c rd imm rb rc => ⟨c, .cas, .u32, (.abs imm), rd, rb, rc⟩
  | .casU32Sp c ps rd ra rb rc => ⟨c, .cas, .u32, (.sp ps ra), rd, rb, rc⟩
  | .casS32Ri c rd ra imm rb rc => ⟨c, .cas, .s32, (.ri ra imm), rd, rb, rc⟩
  | .casS32Abs c rd imm rb rc => ⟨c, .cas, .s32, (.abs imm), rd, rb, rc⟩
  | .casS32Sp c ps rd ra rb rc => ⟨c, .cas, .s32, (.sp ps ra), rd, rb, rc⟩
  | .casU64Ri c rd ra imm rb rc => ⟨c, .cas, .u64, (.ri ra imm), rd, rb, rc⟩
  | .casU64Abs c rd imm rb rc => ⟨c, .cas, .u64, (.abs imm), rd, rb, rc⟩
  | .casU64Sp c ps rd ra rb rc => ⟨c, .cas, .u64, (.sp ps ra), rd, rb, rc⟩

end Sys2Proof
end

