-- ==== Sys2Proof/Config.lean ====
section
/-!
DEFINITION. What an implementation or a launch fixes (the parameters of R4), and the free values: constants without a
body, of which nothing can be proved but that they exist.
-/

namespace Sys2Proof

/-- SPA_VERSION of R4: an architecture version, for example 5.0. -/
structure SpaVersion where
  major : Nat
  minor : Nat
deriving DecidableEq, Repr

/-- The version `v` is `w` or higher (R8, R63, DEDUCED, log 22). -/
def SpaVersion.atLeast (v w : SpaVersion) : Bool :=
  decide (w.major < v.major) || (decide (v.major = w.major) && decide (w.minor ≤ v.minor))

/-- ATOM_ORDERING of R4 and R38: the order in which one thread's ATOMs to different locations take effect. -/
inductive AtomOrdering where
  /-- Events of one thread to different locations may take effect in either order (R38 (4)). -/
  | relaxed
  /-- Events of one thread take effect in program order. -/
  | programOrder
deriving DecidableEq, Repr

/-- What the chosen thread does in a step: run the instruction at its pc, or let the memory event of the `k`-th instruction
after that one take effect ahead of its turn (R38, DEDUCED, log 17). -/
inductive Act where
  | run
  | ahead (k : Nat)
deriving DecidableEq, Repr, Inhabited

/-- One scheduling choice: which of the threads that can step does so, and what it does (R172, R38). -/
structure Choice where
  thread : Nat
  act : Act
deriving DecidableEq, Repr, Inhabited

/-- What the bits of an instruction hold, as far as the spec says (R75, R76). A field that a form does not have is absent: form RI has
`ra` and `imm20`, form ABS has `imm20` alone, form SP has `ra` and `ps`. -/
structure InstrFields where
  guard : Guard
  e : Bool
  op : Op
  sz : Sz
  /-- The number of Rd. -/
  rd : Nat
  /-- The number of Ra. -/
  ra : Option Nat
  /-- The 20-bit address immediate, signed in form RI and unsigned in form ABS (R76 (a)). -/
  imm20 : Option (BitVec 20)
  /-- The 3-bit field of Ps, its number bit-inverted (R76 (b)). -/
  ps : Option (BitVec 3)
  /-- The number of Rb. -/
  rb : Nat
  /-- The number of Rc, in every form (R76 (c)). -/
  rc : Nat
  /-- The four opex items (R76 (e)). -/
  opex : Opex
deriving DecidableEq, Repr

namespace Config

/-- The scheduling choice where `State.schedule` gives none (R172: "any thread ... may take the next step, in any order").
Free value: DESIGN CHOICE, log 11. -/
opaque freeChoice : Nat → Choice

/-- Which of several applicable errors is reported (R165: "chosen freely each time"). Free value: DESIGN CHOICE, log 12. -/
opaque freeError : Nat → Nat

/-- The NaN that `NUM.fadd16_rn` returns (R133: "which one ... is whatever NUM returns"). Free value: DESIGN CHOICE, log 13. -/
opaque nan16 : Half → Half → Half

/-- The NaN that `NUM.fadd32_ftz_rn` returns (R133). Free value: DESIGN CHOICE, log 13. -/
opaque nan32 : Word → Word → Word

/-- The NaN that `NUM.fadd64_rn` returns (R133). Free value: DESIGN CHOICE, log 13. -/
opaque nan64 : DWord → DWord → DWord

/-- What `NUM.fmin16` returns where R134 leaves it open. Free value: DESIGN CHOICE, log 13. -/
opaque openMin16 : Half → Half → Half

/-- What `NUM.fmax16` returns where R134 leaves it open. Free value: DESIGN CHOICE, log 13. -/
opaque openMax16 : Half → Half → Half

/-- ERR_CODE_INVALID_ADDRESS_SPACE (R4, R164). Open: DESIGN CHOICE, log 20. -/
opaque errCodeInvalidAddressSpace : Nat

/-- ERR_CODE_MISALIGNED_ADDRESS (R4, R164). Open: DESIGN CHOICE, log 20. -/
opaque errCodeMisalignedAddress : Nat

/-- ERR_CODE_ADDRESS_OUT_OF_RANGE (R4, R164). Open: DESIGN CHOICE, log 20. -/
opaque errCodeAddressOutOfRange : Nat

/-- RZ_INDEX, the number that RZ is encoded with (R4, R11). Open: DESIGN CHOICE, log 28. -/
opaque rzIndex : Nat

/-- ENC, the binary layout of the instruction word or words (R4, R76): the bits that hold these fields, the least significant bit of the
first word first. Open: DESIGN CHOICE, log 28. -/
opaque enc : InstrFields → List Bool

/-- NUM_SCOREBOARDS (R4, R184 (e)). Open: DESIGN CHOICE, log 28. -/
opaque numScoreboards : Nat

/-- SCOREBOARD_MODEL (R4, R183, R184): with so many scoreboards, and these of them pending, the instructions, one after the
other, keep the hazard rules. Open: DESIGN CHOICE, log 28. -/
opaque scoreboardModel : Nat → List Nat → List AtomInstr → Bool

end Config

end Sys2Proof
end

