-- ==== Sys2Proof/Decode.lean ====
section
/-!
DEFINITION. From program text to instructions and back. The spec's level is assembly text (R2, R75) and it gives no binary
layout (R76), so the decoder reads the bytes of one statement: `lex` cuts them into tokens (R73), `parse` reads the tokens by
the six Format lines (R51 to R56, R78) into the record of R75, and every text that is no instruction is rejected by name (R77).
After it stands the encoder, which writes the statement of an instruction. The lexical points the page does not fix are log 1,
the spelling of the opex items is log 2.
-/

namespace Sys2Proof

/-- Why a text is no instruction. Each is a refusal of the whole text (R77): safe. -/
inductive Reject where
  /-- No mnemonic where one must stand. -/
  | noMnemonic
  /-- The mnemonic does not begin with ATOM (R50). -/
  | notAtom
  /-- No operation after ATOM (R59). -/
  | missingOperation
  /-- The operation is none of the eleven (R59). -/
  | unknownOperation
  /-- `.128` or `.U128`, which the page calls illegal (R61). -/
  | illegalSize128
  /-- The size is none of the spellings of R60 and R61. -/
  | unknownSize
  /-- The operation does not take the size (R62). -/
  | pairNotInTable
  /-- A guard that is not `@Pg` or `@!Pg` with Pg one of P0 to P6, PT (R57). -/
  | badGuard
  /-- An operand that must be a register is none (R10, R11). -/
  | badRegister
  /-- The operands are not those of a Format line (R71). -/
  | badOperands
  /-- The bracketed address is of none of the three forms (R51, R53, R55). -/
  | badAddress
  /-- The immediate is outside its range (R64, R65). -/
  | immediateOutOfRange
  /-- A sparse form with an offset or an absolute address (R66). -/
  | sparseWithImmediate
  /-- Rc on an operation other than CAS, or CAS without Rc (R52, R68). -/
  | wrongRc
  /-- An opex item that is not of the spelling of log 2. -/
  | badOpex
  /-- The statement does not end with `;` (R73), or something follows it. -/
  | badEnd
deriving DecidableEq, Repr

/-- The byte of a character (assembly text is read as ASCII, DESIGN CHOICE, log 1). -/
def ascii (c : Char) : Byte := BitVec.ofNat 8 c.toNat

/-- The bytes of a piece of text. -/
def text (s : String) : Text := s.toByteArray.data.toList.map UInt8.toBitVec

/-! ### Tokens -/

/-- The punctuation of the Format lines. -/
inductive Sym where
  | atSign | bang | comma | lbrack | rbrack | plus | minus | semi | amp | quest
deriving DecidableEq, Repr

/-- The byte a punctuation sign is written as. -/
def Sym.byte : Sym → Byte
  | .atSign => ascii '@'
  | .bang => ascii '!'
  | .comma => ascii ','
  | .lbrack => ascii '['
  | .rbrack => ascii ']'
  | .plus => ascii '+'
  | .minus => ascii '-'
  | .semi => ascii ';'
  | .amp => ascii '&'
  | .quest => ascii '?'

/-- All punctuation signs. -/
def Sym.every : List Sym := [.atSign, .bang, .comma, .lbrack, .rbrack, .plus, .minus, .semi, .amp, .quest]

/-- The punctuation sign a byte is. -/
def symOf (c : Byte) : Option Sym := Sym.every.find? fun s => decide (s.byte = c)

/-- A token: a word (a mnemonic with its modifiers, a register name, a number), a punctuation sign, or a byte that
belongs to neither. -/
inductive Tok where
  | word (w : Text)
  | sym (s : Sym)
  | bad (c : Byte)
deriving DecidableEq, Repr

/-- The bytes of words: digits, letters, the dot of the modifiers and the underscore of `&req_6`. -/
def isWordByte (c : Byte) : Bool :=
  (decide (48 ≤ c.toNat) && decide (c.toNat ≤ 57)) || (decide (65 ≤ c.toNat) && decide (c.toNat ≤ 90)) ||
    (decide (97 ≤ c.toNat) && decide (c.toNat ≤ 122)) || decide (c = ascii '.') || decide (c = ascii '_')

/-- White space: the blank, the tab, the line ends and the zero byte (DESIGN CHOICE, log 1). -/
def isBlank (c : Byte) : Bool := [32#8, 9#8, 10#8, 13#8, 0#8].contains c

/-- The word collected so far, in reverse, as a token. -/
def wordSoFar (acc : Text) : List Tok :=
  match acc with
  | [] => []
  | _ :: _ => [.word acc.reverse]

/-- The tokens of a text: `acc` is the word being read, in reverse, and `comment` says that a comment is being skipped.
`//` and `#` begin a comment that runs to the end of the line (R73). That byte 10 (LF) alone ends the line, and byte 13 (CR)
does not, is the model's (DESIGN CHOICE, log 1). -/
def lexFrom : Text → Text → Bool → List Tok
  | [], acc, _ => wordSoFar acc
  | c :: cs, acc, true => if c = 10#8 then lexFrom cs acc false else lexFrom cs acc true
  | c :: cs, acc, false =>
    if isWordByte c then lexFrom cs (c :: acc) false
    else wordSoFar acc ++
      if isBlank c then lexFrom cs [] false
      else if c = ascii '#' then lexFrom cs [] true
      else if c = ascii '/' ∧ cs.head? = some (ascii '/') then lexFrom cs [] true
      else match symOf c with
        | some s => .sym s :: lexFrom cs [] false
        | none => .bad c :: lexFrom cs [] false

/-- The tokens of a text. -/
def lex (bs : Text) : List Tok := lexFrom bs [] false

/-! ### Words -/

/-- The value of a decimal digit. -/
def decDigitOf (c : Byte) : Option Nat :=
  if 48 ≤ c.toNat ∧ c.toNat ≤ 57 then some (c.toNat - 48) else none

/-- The value of a hexadecimal digit with lower-case letters (R73). -/
def hexDigitOf (c : Byte) : Option Nat :=
  if 97 ≤ c.toNat ∧ c.toNat ≤ 102 then some (c.toNat - 87) else decDigitOf c

/-- The number whose digits, most significant first, follow the value `n` in base `base`. -/
def digitsFrom (base : Nat) (digit : Byte → Option Nat) : Nat → Text → Option Nat
  | n, [] => some n
  | n, c :: cs => match digit c with
    | some d => digitsFrom base digit (n * base + d) cs
    | none => none

/-- A decimal number: one digit or more. -/
def decOf (t : Text) : Option Nat :=
  match t with
  | [] => none
  | _ :: _ => digitsFrom 10 decDigitOf 0 t

/-- A number of R73: hexadecimal with `0x`, or decimal. -/
def numberOf (t : Text) : Option Nat :=
  match t with
  | z :: x :: d :: ds => if z = ascii '0' ∧ x = ascii 'x' then digitsFrom 16 hexDigitOf 0 (d :: ds) else decOf t
  | _ => decOf t

/-- A general register's name: the letter R followed by its number in decimal (R10), or RZ (R11). -/
def regOf (t : Text) : Option Reg :=
  if t = text "RZ" then some .rz
  else match t with
    | c :: ds => if c = ascii 'R' then (decOf ds).map Reg.r else none
    | [] => none

/-- All predicate registers (R14). -/
def PredReg.every : List PredReg := [.p 0, .p 1, .p 2, .p 3, .p 4, .p 5, .p 6, .pt]

/-- A predicate register's name (R14). -/
def PredReg.name : PredReg → Text
  | .p k => [ascii 'P', BitVec.ofNat 8 (48 + k.val)]
  | .pt => text "PT"

/-- The predicate register a word names. -/
def predOf (t : Text) : Option PredReg := PredReg.every.find? fun p => decide (p.name = t)

/-- The spelling of an operation (R59). -/
def Op.name : Op → Text
  | .add => text "ADD"
  | .min => text "MIN"
  | .max => text "MAX"
  | .inc => text "INC"
  | .dec => text "DEC"
  | .and => text "AND"
  | .or => text "OR"
  | .xor => text "XOR"
  | .exch => text "EXCH"
  | .safeAdd => text "SAFEADD"
  | .cas => text "CAS"

/-- All operations. -/
def Op.every : List Op := [.add, .min, .max, .inc, .dec, .and, .or, .xor, .exch, .safeAdd, .cas]

/-- The operation a modifier names. -/
def opOf (t : Text) : Option Op := Op.every.find? fun o => decide (o.name = t)

/-- The modifiers that spell a size in full (R60). -/
def Sz.names : Sz → List Text
  | .u32 => [text "U32"]
  | .s32 => [text "S32"]
  | .u64 => [text "U64"]
  | .s64 => [text "S64"]
  | .f32 => [text "F32", text "FTZ", text "RN"]
  | .f16x2 => [text "F16x2", text "RN"]
  | .f64 => [text "F64", text "RN"]

/-- Every spelling of a size: in full, left out (`.U32`, R60), `.32` and `.64` (R61), and the legend's `.F16x2.FTZ.RN` (R60). -/
def sizeSpellings : List (List Text × Sz) :=
  [(Sz.u32.names, .u32), (Sz.s32.names, .s32), (Sz.u64.names, .u64), (Sz.s64.names, .s64), (Sz.f32.names, .f32),
   (Sz.f16x2.names, .f16x2), (Sz.f64.names, .f64), ([], .u32), ([text "32"], .u32), ([text "64"], .u64),
   ([text "F16x2", text "FTZ", text "RN"], .f16x2)]

/-- The size that the modifiers after the operation spell. -/
def sizeOf (parts : List Text) : Except Reject Sz :=
  match sizeSpellings.find? fun p => decide (p.1 = parts) with
  | some p => .ok p.2
  | none => if parts = [text "U128"] ∨ parts = [text "128"] then .error .illegalSize128 else .error .unknownSize

/-- The parts of a word between its dots; `acc` is the part being read, in reverse. -/
def splitDotsFrom : Text → Text → List Text
  | [], acc => [acc.reverse]
  | c :: cs, acc => if c = ascii '.' then acc.reverse :: splitDotsFrom cs [] else splitDotsFrom cs (c :: acc)

/-- `.E`, operation and size of a mnemonic `ATOM{.E}.op{.sz}` (R58 to R62). -/
def mnemonicOf (w : Text) : Except Reject (Bool × Op × Sz) :=
  match splitDotsFrom w [] with
  | [] => .error .notAtom
  | a :: rest =>
    if a ≠ text "ATOM" then .error .notAtom
    else
      let e := decide (rest.head? = some (text "E"))
      match if e then rest.tail else rest with
      | [] => .error .missingOperation
      | o :: parts =>
        match opOf o with
        | none => .error .unknownOperation
        | some op =>
          match sizeOf parts with
          | .error r => .error r
          | .ok sz => if legalPair op sz then .ok (e, op, sz) else .error .pairNotInTable

/-! ### Statements -/

/-- The guard `{@{!}Pg}` and the tokens after it (R57). -/
def parseGuard : List Tok → Except Reject (Guard × List Tok)
  | .sym .atSign :: .sym .bang :: .word p :: rest => match predOf p with
    | some pg => .ok (⟨true, pg⟩, rest)
    | none => .error .badGuard
  | .sym .atSign :: .word p :: rest => match predOf p with
    | some pg => .ok (⟨false, pg⟩, rest)
    | none => .error .badGuard
  | .sym .atSign :: _ => .error .badGuard
  | toks => .ok (Guard.always, toks)

/-- The mnemonic and the tokens after it. -/
def parseMnemonic : List Tok → Except Reject ((Bool × Op × Sz) × List Tok)
  | .word w :: rest => match mnemonicOf w with
    | .ok m => .ok (m, rest)
    | .error r => .error r
  | _ => .error .noMnemonic

/-- Ps with its comma, where the first operand is a predicate (R55, R56), and the tokens after it. -/
def parsePs : List Tok → Option PredReg × List Tok
  | .word w :: .sym .comma :: rest => match predOf w with
    | some ps => (some ps, rest)
    | none => (none, .word w :: .sym .comma :: rest)
  | toks => (none, toks)

/-- A register and the tokens after it. -/
def parseReg : List Tok → Except Reject (Reg × List Tok)
  | .word w :: rest => match regOf w with
    | some r => .ok (r, rest)
    | none => .error .badRegister
  | _ => .error .badOperands

/-- A comma. -/
def parseComma : List Tok → Except Reject (List Tok)
  | .sym .comma :: rest => .ok rest
  | _ => .error .badOperands

/-- What stands in the brackets: a register with an optional signed offset, or a number. -/
inductive AddrText where
  | reg (ra : Reg) (offset : Option Int)
  | number (n : Nat)
deriving DecidableEq, Repr

/-- The bracketed address and the tokens after it. -/
def parseAddr : List Tok → Except Reject (AddrText × List Tok)
  | .sym .lbrack :: .word a :: .sym .rbrack :: rest => match regOf a with
    | some ra => .ok (.reg ra none, rest)
    | none => match numberOf a with
      | some n => .ok (.number n, rest)
      | none => .error .badAddress
  | .sym .lbrack :: .word a :: .sym .plus :: .word n :: .sym .rbrack :: rest => match regOf a, numberOf n with
    | some ra, some k => .ok (.reg ra (some (k : Int)), rest)
    | _, _ => .error .badAddress
  | .sym .lbrack :: .word a :: .sym .minus :: .word n :: .sym .rbrack :: rest => match regOf a, numberOf n with
    | some ra, some k => .ok (.reg ra (some (-(k : Int))), rest)
    | _, _ => .error .badAddress
  | _ => .error .badAddress

/-- The address operand of the form: RI with ImmS20, absent meaning 0 (R64), ABS with ImmU20 (R65), SP with no immediate (R66). -/
def addrOf (ps : Option PredReg) (t : AddrText) : Except Reject Addr :=
  match ps, t with
  | none, .reg ra off =>
    if -524288 ≤ off.getD 0 ∧ off.getD 0 ≤ 524287 then .ok (.ri ra (BitVec.ofInt 20 (off.getD 0)))
    else .error .immediateOutOfRange
  | none, .number n => if n < 1048576 then .ok (.abs (BitVec.ofNat 20 n)) else .error .immediateOutOfRange
  | some ps, .reg ra none => .ok (.sp ps ra)
  | some _, _ => .error .sparseWithImmediate

/-- Rc with its comma: written for CAS (R52), left out and RZ for the other operations (R68). -/
def parseRc (op : Op) : List Tok → Except Reject (Reg × List Tok)
  | .sym .comma :: rest => if op = .cas then parseReg rest else .error .wrongRc
  | toks => if op = .cas then .error .wrongRc else .ok (.rz, toks)

/-- What follows `lead` at the head of `t`. -/
def afterLead : Text → Text → Option Text
  | [], t => some t
  | _ :: _, [] => none
  | p :: ps, c :: cs => if p = c then afterLead ps cs else none

/-- One optional opex item, a sign, a lead and a decimal number (DESIGN CHOICE, log 2), and the tokens after it. -/
def parseOpexItem (sign : Sym) (lead : Text) : List Tok → Except Reject (Option Nat × List Tok)
  | .sym s :: .word w :: rest =>
    if s = sign then match afterLead lead w with
      | some ds => match decOf ds with
        | some n => .ok (some n, rest)
        | none => .error .badOpex
      | none => .ok (none, .sym s :: .word w :: rest)
    else .ok (none, .sym s :: .word w :: rest)
  | toks => .ok (none, toks)

/-- The four opex items in the order of R72, each optional. -/
def parseOpex (toks : List Tok) : Except Reject (Opex × List Tok) := do
  let (req, toks) ← parseOpexItem .amp (text "req_") toks
  let (rd, toks) ← parseOpexItem .amp (text "rd") toks
  let (wr, toks) ← parseOpexItem .amp (text "wr") toks
  let (sched, toks) ← parseOpexItem .quest [] toks
  if req.getD 0 < 64 then .ok (⟨BitVec.ofNat 6 (req.getD 0), rd, wr, sched⟩, toks) else .error .badOpex

/-- One statement, read in the order of the Format lines (R51 to R56, R71). -/
def parse (toks : List Tok) : Except Reject AtomInstr := do
  let (guard, toks) ← parseGuard toks
  let ((e, op, sz), toks) ← parseMnemonic toks
  let (ps, toks) := parsePs toks
  let (rd, toks) ← parseReg toks
  let toks ← parseComma toks
  let (addrText, toks) ← parseAddr toks
  let addr ← addrOf ps addrText
  let toks ← parseComma toks
  let (rb, toks) ← parseReg toks
  let (rc, toks) ← parseRc op toks
  let (opex, toks) ← parseOpex toks
  if toks = [.sym .semi] then .ok ⟨⟨guard, e, opex⟩, op, sz, addr, rd, rb, rc⟩ else .error .badEnd

/-- The instruction a record stands for: one of the 102 rows of R74, or none for a pair outside the table of R62. -/
def AtomInstr.toInstr? (I : AtomInstr) : Option Instr :=
  match I.op, I.sz with
  | .add, .u32 =>
    some <| match I.addr with
      | .ri ra imm => .addU32Ri I.common I.rd ra imm I.rb
      | .abs imm => .addU32Abs I.common I.rd imm I.rb
      | .sp ps ra => .addU32Sp I.common ps I.rd ra I.rb
  | .add, .s32 =>
    some <| match I.addr with
      | .ri ra imm => .addS32Ri I.common I.rd ra imm I.rb
      | .abs imm => .addS32Abs I.common I.rd imm I.rb
      | .sp ps ra => .addS32Sp I.common ps I.rd ra I.rb
  | .add, .u64 =>
    some <| match I.addr with
      | .ri ra imm => .addU64Ri I.common I.rd ra imm I.rb
      | .abs imm => .addU64Abs I.common I.rd imm I.rb
      | .sp ps ra => .addU64Sp I.common ps I.rd ra I.rb
  | .add, .f32 =>
    some <| match I.addr with
      | .ri ra imm => .addF32Ri I.common I.rd ra imm I.rb
      | .abs imm => .addF32Abs I.common I.rd imm I.rb
      | .sp ps ra => .addF32Sp I.common ps I.rd ra I.rb
  | .add, .f16x2 =>
    some <| match I.addr with
      | .ri ra imm => .addF16x2Ri I.common I.rd ra imm I.rb
      | .abs imm => .addF16x2Abs I.common I.rd imm I.rb
      | .sp ps ra => .addF16x2Sp I.common ps I.rd ra I.rb
  | .add, .f64 =>
    some <| match I.addr with
      | .ri ra imm => .addF64Ri I.common I.rd ra imm I.rb
      | .abs imm => .addF64Abs I.common I.rd imm I.rb
      | .sp ps ra => .addF64Sp I.common ps I.rd ra I.rb
  | .min, .u32 =>
    some <| match I.addr with
      | .ri ra imm => .minU32Ri I.common I.rd ra imm I.rb
      | .abs imm => .minU32Abs I.common I.rd imm I.rb
      | .sp ps ra => .minU32Sp I.common ps I.rd ra I.rb
  | .min, .s32 =>
    some <| match I.addr with
      | .ri ra imm => .minS32Ri I.common I.rd ra imm I.rb
      | .abs imm => .minS32Abs I.common I.rd imm I.rb
      | .sp ps ra => .minS32Sp I.common ps I.rd ra I.rb
  | .min, .u64 =>
    some <| match I.addr with
      | .ri ra imm => .minU64Ri I.common I.rd ra imm I.rb
      | .abs imm => .minU64Abs I.common I.rd imm I.rb
      | .sp ps ra => .minU64Sp I.common ps I.rd ra I.rb
  | .min, .s64 =>
    some <| match I.addr with
      | .ri ra imm => .minS64Ri I.common I.rd ra imm I.rb
      | .abs imm => .minS64Abs I.common I.rd imm I.rb
      | .sp ps ra => .minS64Sp I.common ps I.rd ra I.rb
  | .min, .f16x2 =>
    some <| match I.addr with
      | .ri ra imm => .minF16x2Ri I.common I.rd ra imm I.rb
      | .abs imm => .minF16x2Abs I.common I.rd imm I.rb
      | .sp ps ra => .minF16x2Sp I.common ps I.rd ra I.rb
  | .max, .u32 =>
    some <| match I.addr with
      | .ri ra imm => .maxU32Ri I.common I.rd ra imm I.rb
      | .abs imm => .maxU32Abs I.common I.rd imm I.rb
      | .sp ps ra => .maxU32Sp I.common ps I.rd ra I.rb
  | .max, .s32 =>
    some <| match I.addr with
      | .ri ra imm => .maxS32Ri I.common I.rd ra imm I.rb
      | .abs imm => .maxS32Abs I.common I.rd imm I.rb
      | .sp ps ra => .maxS32Sp I.common ps I.rd ra I.rb
  | .max, .u64 =>
    some <| match I.addr with
      | .ri ra imm => .maxU64Ri I.common I.rd ra imm I.rb
      | .abs imm => .maxU64Abs I.common I.rd imm I.rb
      | .sp ps ra => .maxU64Sp I.common ps I.rd ra I.rb
  | .max, .s64 =>
    some <| match I.addr with
      | .ri ra imm => .maxS64Ri I.common I.rd ra imm I.rb
      | .abs imm => .maxS64Abs I.common I.rd imm I.rb
      | .sp ps ra => .maxS64Sp I.common ps I.rd ra I.rb
  | .max, .f16x2 =>
    some <| match I.addr with
      | .ri ra imm => .maxF16x2Ri I.common I.rd ra imm I.rb
      | .abs imm => .maxF16x2Abs I.common I.rd imm I.rb
      | .sp ps ra => .maxF16x2Sp I.common ps I.rd ra I.rb
  | .inc, .u32 =>
    some <| match I.addr with
      | .ri ra imm => .incU32Ri I.common I.rd ra imm I.rb
      | .abs imm => .incU32Abs I.common I.rd imm I.rb
      | .sp ps ra => .incU32Sp I.common ps I.rd ra I.rb
  | .dec, .u32 =>
    some <| match I.addr with
      | .ri ra imm => .decU32Ri I.common I.rd ra imm I.rb
      | .abs imm => .decU32Abs I.common I.rd imm I.rb
      | .sp ps ra => .decU32Sp I.common ps I.rd ra I.rb
  | .and, .u32 =>
    some <| match I.addr with
      | .ri ra imm => .andU32Ri I.common I.rd ra imm I.rb
      | .abs imm => .andU32Abs I.common I.rd imm I.rb
      | .sp ps ra => .andU32Sp I.common ps I.rd ra I.rb
  | .and, .s32 =>
    some <| match I.addr with
      | .ri ra imm => .andS32Ri I.common I.rd ra imm I.rb
      | .abs imm => .andS32Abs I.common I.rd imm I.rb
      | .sp ps ra => .andS32Sp I.common ps I.rd ra I.rb
  | .and, .u64 =>
    some <| match I.addr with
      | .ri ra imm => .andU64Ri I.common I.rd ra imm I.rb
      | .abs imm => .andU64Abs I.common I.rd imm I.rb
      | .sp ps ra => .andU64Sp I.common ps I.rd ra I.rb
  | .or, .u32 =>
    some <| match I.addr with
      | .ri ra imm => .orU32Ri I.common I.rd ra imm I.rb
      | .abs imm => .orU32Abs I.common I.rd imm I.rb
      | .sp ps ra => .orU32Sp I.common ps I.rd ra I.rb
  | .or, .s32 =>
    some <| match I.addr with
      | .ri ra imm => .orS32Ri I.common I.rd ra imm I.rb
      | .abs imm => .orS32Abs I.common I.rd imm I.rb
      | .sp ps ra => .orS32Sp I.common ps I.rd ra I.rb
  | .or, .u64 =>
    some <| match I.addr with
      | .ri ra imm => .orU64Ri I.common I.rd ra imm I.rb
      | .abs imm => .orU64Abs I.common I.rd imm I.rb
      | .sp ps ra => .orU64Sp I.common ps I.rd ra I.rb
  | .xor, .u32 =>
    some <| match I.addr with
      | .ri ra imm => .xorU32Ri I.common I.rd ra imm I.rb
      | .abs imm => .xorU32Abs I.common I.rd imm I.rb
      | .sp ps ra => .xorU32Sp I.common ps I.rd ra I.rb
  | .xor, .s32 =>
    some <| match I.addr with
      | .ri ra imm => .xorS32Ri I.common I.rd ra imm I.rb
      | .abs imm => .xorS32Abs I.common I.rd imm I.rb
      | .sp ps ra => .xorS32Sp I.common ps I.rd ra I.rb
  | .xor, .u64 =>
    some <| match I.addr with
      | .ri ra imm => .xorU64Ri I.common I.rd ra imm I.rb
      | .abs imm => .xorU64Abs I.common I.rd imm I.rb
      | .sp ps ra => .xorU64Sp I.common ps I.rd ra I.rb
  | .exch, .u32 =>
    some <| match I.addr with
      | .ri ra imm => .exchU32Ri I.common I.rd ra imm I.rb
      | .abs imm => .exchU32Abs I.common I.rd imm I.rb
      | .sp ps ra => .exchU32Sp I.common ps I.rd ra I.rb
  | .exch, .s32 =>
    some <| match I.addr with
      | .ri ra imm => .exchS32Ri I.common I.rd ra imm I.rb
      | .abs imm => .exchS32Abs I.common I.rd imm I.rb
      | .sp ps ra => .exchS32Sp I.common ps I.rd ra I.rb
  | .exch, .u64 =>
    some <| match I.addr with
      | .ri ra imm => .exchU64Ri I.common I.rd ra imm I.rb
      | .abs imm => .exchU64Abs I.common I.rd imm I.rb
      | .sp ps ra => .exchU64Sp I.common ps I.rd ra I.rb
  | .safeAdd, .u64 =>
    some <| match I.addr with
      | .ri ra imm => .safeAddU64Ri I.common I.rd ra imm I.rb
      | .abs imm => .safeAddU64Abs I.common I.rd imm I.rb
      | .sp ps ra => .safeAddU64Sp I.common ps I.rd ra I.rb
  | .cas, .u32 =>
    some <| match I.addr with
      | .ri ra imm => .casU32Ri I.common I.rd ra imm I.rb I.rc
      | .abs imm => .casU32Abs I.common I.rd imm I.rb I.rc
      | .sp ps ra => .casU32Sp I.common ps I.rd ra I.rb I.rc
  | .cas, .s32 =>
    some <| match I.addr with
      | .ri ra imm => .casS32Ri I.common I.rd ra imm I.rb I.rc
      | .abs imm => .casS32Abs I.common I.rd imm I.rb I.rc
      | .sp ps ra => .casS32Sp I.common ps I.rd ra I.rb I.rc
  | .cas, .u64 =>
    some <| match I.addr with
      | .ri ra imm => .casU64Ri I.common I.rd ra imm I.rb I.rc
      | .abs imm => .casU64Abs I.common I.rd imm I.rb I.rc
      | .sp ps ra => .casU64Sp I.common ps I.rd ra I.rb I.rc
  | _, _ => none

/-- The instruction a text spells, or the reason why it spells none (R75, R77). -/
def decode (bs : Text) : Except Reject Instr :=
  match parse (lex bs) with
  | .error r => .error r
  | .ok I => match I.toInstr? with
    | some i => .ok i
    | none => .error .pairNotInTable

/-! ### The encoder -/

/-- The decimal digits of `n` before `acc`; `fuel` is at least the number of digits less one. -/
def decDigits : Nat → Nat → Text → Text
  | 0, n, acc => BitVec.ofNat 8 (48 + n % 10) :: acc
  | fuel + 1, n, acc =>
    if n < 10 then BitVec.ofNat 8 (48 + n) :: acc else decDigits fuel (n / 10) (BitVec.ofNat 8 (48 + n % 10) :: acc)

/-- A number written in decimal. -/
def decText (n : Nat) : Text := decDigits n n []

/-- A register's name (R10, R11). -/
def Reg.name : Reg → Text
  | .r n => ascii 'R' :: decText n
  | .rz => text "RZ"

/-- A mnemonic with its modifiers, the size always written in full. -/
def mnemonicText (e : Bool) (op : Op) (sz : Sz) : Text :=
  text "ATOM" ++ (if e then text ".E" else []) ++ ascii '.' :: op.name ++ sz.names.flatMap fun t => ascii '.' :: t

/-- The guard, left out when it is `@PT`. -/
def guardToks (g : Guard) : List Tok :=
  if g = Guard.always then [] else .sym .atSign :: (if g.neg then [.sym .bang] else []) ++ [.word g.pg.name]

/-- Ps with its comma, in the sparse forms. -/
def psToks : Addr → List Tok
  | .sp ps _ => [.word ps.name, .sym .comma]
  | _ => []

/-- The bracketed address; the signed offset is always written, with its sign (R64). -/
def addrToks : Addr → List Tok
  | .ri ra imm =>
    [.sym .lbrack, .word ra.name, .sym (if imm.msb then .minus else .plus), .word (decText imm.toInt.natAbs), .sym .rbrack]
  | .abs imm => [.sym .lbrack, .word (decText imm.toNat), .sym .rbrack]
  | .sp _ ra => [.sym .lbrack, .word ra.name, .sym .rbrack]

/-- Rc with its comma, for CAS. -/
def rcToks (op : Op) (rc : Reg) : List Tok := if op = .cas then [.sym .comma, .word rc.name] else []

/-- One opex item, when it is present. -/
def opexItemToks (sign : Sym) (lead : Text) : Option Nat → List Tok
  | some n => [.sym sign, .word (lead ++ decText n)]
  | none => []

/-- The opex items in the order of R72; an empty request set is left out. -/
def opexToks (o : Opex) : List Tok :=
  opexItemToks .amp (text "req_") (if o.req = 0#6 then none else some o.req.toNat) ++
    opexItemToks .amp (text "rd") o.rdSb ++ opexItemToks .amp (text "wr") o.wrSb ++ opexItemToks .quest [] o.sched

/-- The tokens of an instruction's statement. -/
def statementToks (I : AtomInstr) : List Tok :=
  guardToks I.common.guard ++ [.word (mnemonicText I.common.e I.op I.sz)] ++ psToks I.addr ++
    [.word I.rd.name, .sym .comma] ++ addrToks I.addr ++ [.sym .comma, .word I.rb.name] ++ rcToks I.op I.rc ++
    opexToks I.common.opex ++ [.sym .semi]

/-- The bytes of a token: a word is followed by a blank. -/
def Tok.bytes : Tok → Text
  | .word w => w ++ [ascii ' ']
  | .sym s => [s.byte]
  | .bad c => [c]

/-- The statement of an instruction. -/
def encode (i : Instr) : Text := (statementToks i.record).flatMap Tok.bytes

/-! ### What the spec says of the binary form, and the host's entry -/

/-- The 3-bit Ps field of the binary instruction: the predicate's number with every bit inverted (R67). -/
def psField (ps : PredReg) : BitVec 3 := ~~~(BitVec.ofNat 3 ps.number)

/-- The predicate that a 3-bit Ps field names (R67). -/
def psOfField (f : BitVec 3) : PredReg :=
  if h : (~~~f).toNat < 7 then .p ⟨(~~~f).toNat, h⟩ else .pt

/-- The number that a general register is encoded with: its own (R10), and RZ_INDEX for RZ (R11). -/
def Reg.index : Reg → Nat
  | .r n => n
  | .rz => Config.rzIndex

/-- The 20-bit field of a signed offset: its two's-complement pattern (R64). -/
def immField (offset : Int) : BitVec 20 := BitVec.ofInt 20 offset

/-- The fields of an instruction record that its bits hold (R75, R76). -/
def AtomInstr.fields (I : AtomInstr) : InstrFields where
  guard := I.common.guard
  e := I.common.e
  op := I.op
  sz := I.sz
  rd := I.rd.index
  ra :=
    match I.addr with
    | .ri ra _ => some ra.index
    | .abs _ => none
    | .sp _ ra => some ra.index
  imm20 :=
    match I.addr with
    | .ri _ imm => some imm
    | .abs imm => some imm
    | .sp _ _ => none
  ps :=
    match I.addr with
    | .ri _ _ => none
    | .abs _ => none
    | .sp ps _ => some (psField ps)
  rb := I.rb.index
  rc := I.rc.index
  opex := I.common.opex

/-- The bits of an instruction, given ENC (R75, R76). The machine does not fetch them: its program is text (R2, log 1). -/
def Instr.bits (i : Instr) : List Bool := Config.enc i.record.fields

/-- The first `n` bytes of a number, the least significant first. -/
def bytesOf : Nat → Nat → Text
  | 0, _ => []
  | n + 1, w => BitVec.ofNat 8 w :: bytesOf n (w / 256)

/-- The instruction that the decoder reads from the `nbits` bits of `w`: the bytes of a statement's text, the first in the
least significant bits. -/
def decodeTableWord (nbits w : Nat) : Option Instr := (decode (bytesOf ((nbits + 7) / 8) w)).toOption

end Sys2Proof
end

