-- ==== Sys2Proof/WellFormed.lean ====
section
/-!
DEFINITION. When an instruction is well formed (R75): a list of named checks. An instruction that fails one has no
meaning in the spec and is refused.
-/

namespace Sys2Proof

/-- Why an instruction is not well formed. Each is a refusal of the whole instruction (R75, R77): safe. -/
inductive IllFormed where
  /-- The operation does not take the size (R62, R77 (2)). -/
  | pairNotInTable
  /-- A starred pair on a version below SPA 3.5 (R63, R77 (3)). -/
  | versionTooLow
  /-- A register number of NUM_GPR or more, alone or as the second of a pair (R70). -/
  | noSuchRegister
  /-- A 64-bit operand, or the Ra pair of `.E`, named by an odd register (R70, R77 (6)). -/
  | oddPair
  /-- Form RI with Ra = RZ and a negative offset (R69, R77 (8)). -/
  | rzNegativeOffset
  /-- Rc written on an operation other than CAS (R68). -/
  | rcWithoutCas
  /-- CAS whose Rb is RZ (R144, R145). -/
  | casCompareRz
  /-- CAS whose Rb is not a multiple of 2 (32 bits, R144) or of 4 (64 bits, R145). -/
  | casCompareUnaligned
  /-- CAS whose Rc is RZ (R146). -/
  | casSwapRz
  /-- CAS whose Rc is not Rb+1 (32 bits, R144) or Rb+2 (64 bits, R145). -/
  | casSwapNotNext
deriving DecidableEq, Repr

/-- The register exists: RZ, or a number below NUM_GPR (R70). -/
def Reg.present (numGpr : Nat) : Reg → Bool
  | .r n => decide (n < numGpr)
  | .rz => true

/-- Both registers of the pair exist (R70). -/
def Reg.pairPresent (numGpr : Nat) : Reg → Bool
  | .r n => decide (n + 1 < numGpr)
  | .rz => true

/-- The first register of a pair is even, or RZ (R70). -/
def Reg.even : Reg → Bool
  | .r n => decide (n % 2 = 0)
  | .rz => true

/-- The base register of the address operand: none in the absolute forms (R53). -/
def Addr.base : Addr → Option Reg
  | .ri ra _ => some ra
  | .abs _ => none
  | .sp _ ra => some ra

/-- Every register the instruction names exists (R70). -/
def AtomInstr.registersPresent (numGpr : Nat) (I : AtomInstr) : Bool :=
  ([I.rd, I.rb, I.rc].all fun r => if I.sz.bytes = 8 then r.pairPresent numGpr else r.present numGpr) &&
    I.addr.base.all fun r => if I.common.e then r.pairPresent numGpr else r.present numGpr

/-- Every pair the instruction names begins with an even register (R70). -/
def AtomInstr.pairsEven (I : AtomInstr) : Bool :=
  (decide (I.sz.bytes ≠ 8) || [I.rd, I.rb, I.rc].all Reg.even) && (!I.common.e || I.addr.base.all Reg.even)

/-- Not form RI with Ra = RZ and a negative offset (R69). -/
def AtomInstr.offsetOk (I : AtomInstr) : Bool :=
  match I.addr with
  | .ri .rz imm => !imm.msb
  | _ => true

/-- The number of registers one data operand takes: 1 for 4 bytes, 2 for 8 bytes (R12). -/
def Sz.registers (sz : Sz) : Nat := sz.bytes / 4

/-- Rb of a CAS is a multiple of twice the operand's registers: R2n for 32 bits (R144), R4n for 64 bits (R145). -/
def AtomInstr.compareAligned (I : AtomInstr) : Bool :=
  match I.rb with
  | .r n => decide (n % (2 * I.sz.registers) = 0)
  | .rz => true

/-- Rc of a CAS follows Rb: Rb+1 for 32 bits (R144), Rb+2 for 64 bits (R145). -/
def AtomInstr.swapNext (I : AtomInstr) : Bool :=
  match I.rb, I.rc with
  | .r n, .r k => decide (k = n + I.sz.registers)
  | _, _ => true

/-- The checks of R75, each with the reason for which it refuses. -/
def AtomInstr.checks (numGpr : Nat) (spa : SpaVersion) (I : AtomInstr) : List (Bool × IllFormed) :=
  [(legalPair I.op I.sz, .pairNotInTable),
   (!starredPair I.op I.sz || spa.atLeast ⟨3, 5⟩, .versionTooLow),
   (I.registersPresent numGpr, .noSuchRegister),
   (I.pairsEven, .oddPair),
   (I.offsetOk, .rzNegativeOffset),
   (decide (I.op = .cas) || decide (I.rc = .rz), .rcWithoutCas),
   (decide (I.op ≠ .cas) || decide (I.rb ≠ .rz), .casCompareRz),
   (decide (I.op ≠ .cas) || I.compareAligned, .casCompareUnaligned),
   (decide (I.op ≠ .cas) || decide (I.rc ≠ .rz), .casSwapRz),
   (decide (I.op ≠ .cas) || I.swapNext, .casSwapNotNext)]

/-- The first check that refuses, if any. -/
def AtomInstr.firstProblem (numGpr : Nat) (spa : SpaVersion) (I : AtomInstr) : Option IllFormed :=
  ((I.checks numGpr spa).find? fun c => !c.1).map Prod.snd

/-- The record is well formed (R75). -/
def AtomInstr.wf (numGpr : Nat) (spa : SpaVersion) (I : AtomInstr) : Bool :=
  (I.checks numGpr spa).all Prod.fst

/-- The instruction is well formed (R75). -/
def Instr.wf (numGpr : Nat) (spa : SpaVersion) (i : Instr) : Bool := i.record.wf numGpr spa

end Sys2Proof
end

