-- ==== Sys2Proof/Machine/State.lean ====
section
/-!
DEFINITION. The state of the machine (10_state.md), the reasons a step can stop, and the state right after reset. State is
plain data and holds everything the spec gives the machine: the threads, global memory, the launch parameters, and three
fields of the model's own (`cur`, `schedule`, `draws`).
-/

namespace Sys2Proof.Machine

/-- The three errors an ATOM can raise (R160). -/
inductive ErrorKind where
  /-- The access meets the Local or the Shared window (R161). -/
  | invalidAddressSpace
  /-- The address is not a multiple of the access size (R162). -/
  | misalignedAddress
  /-- A byte of the access is not allocated (R163). -/
  | addressOutOfRange
deriving DecidableEq, Repr

/-- Why the machine stops with a fault. -/
inductive Fault where
  /-- Raised by `step`: no thread can take a step, because each has faulted (R166) or reached the end of the program text
  (R189). Safe: the spec gives no further step. -/
  | noRunnableThread
  /-- Raised by `step`: the schedule let an event take effect ahead of an older instruction of its thread whose address was not known
  then, and the older one turns out to share a byte with it, an order that R38 (3) forbids (for a half of a location: log 29),
  or to raise an error, after which the thread executes nothing further (R166). No run that the spec allows has such a schedule
  (log 17). Safe. -/
  | forbiddenOrder
  /-- Raised by `exec` and `step`: `State.cur` names no thread. No run from a state whose `cur` names a thread reaches it. Safe. -/
  | noSuchThread
deriving DecidableEq, Repr

/-- Why the machine refuses to give an instruction a meaning. -/
inductive Refusal where
  /-- Raised by an arm of `exec` whose instruction has no meaning yet. Safe. -/
  | notModelled (mnemonic : String)
  /-- Raised by `step`: the text at the pc spells no instruction (R77). Safe: the spec gives it no meaning. -/
  | unreadable (why : Reject)
  /-- Raised by `exec`: the instruction is not well formed (R75). Safe: the spec gives it no meaning. -/
  | illFormed (why : IllFormed)
  /-- Raised by `exec`: the access is to a page marked sparse (R153, R155). Safe: the spec gives it no effect. -/
  | sparsePage
  /-- Raised by `exec`: the event of SAFEADD, whose function is not in the source (R131). Safe. -/
  | safeAddFormula
deriving DecidableEq, Repr

/-- A set of consecutive byte addresses: `base` to `base + size - 1`. -/
structure Region where
  base : Nat
  size : Nat
deriving DecidableEq, Repr

/-- The parameters of the launch (R4, R23, R180): constant during a run. -/
structure Launch where
  /-- The program text: statement number k stands at pc `k * ilen` (R42, R189, DESIGN CHOICE, log 9). -/
  program : List Text
  /-- ALLOCATED (R17, R34). -/
  allocated : List Region
  /-- LOCAL_WINDOW (R16, R35). -/
  localWindow : List Region
  /-- SHARED_WINDOW (R16, R35). -/
  sharedWindow : List Region
  /-- PAGE_SIZE, in bytes (R4, R18). -/
  pageSize : Nat
  /-- The numbers of the pages marked sparse (R18, DEDUCED, log 24). -/
  sparsePages : List Nat
  /-- The program is a pixel shader (R19). -/
  isPixelShader : Bool
  /-- NUM_GPR (R4). -/
  numGpr : Nat
  /-- ILEN (R4, R15). -/
  ilen : Nat
  /-- SPA_VERSION (R4, R63). -/
  spa : SpaVersion
  /-- ATOM_ORDERING (R4, R38). -/
  ordering : AtomOrdering
deriving DecidableEq, Repr

/-- An event that has taken effect ahead of its turn: the instruction is still to be reached by the pc (R38 (4), DEDUCED, log 17). -/
structure Early where
  /-- The pc of the instruction. -/
  pc : Nat
  /-- Its effective address. -/
  address : DWord
  /-- Its access size. -/
  bytes : Nat
  /-- What Rd is to receive: register numbers and values. -/
  regs : List (Nat × Word)
  /-- What Ps is to receive. -/
  preds : List (Fin 7 × Bool)
deriving DecidableEq, Repr

/-- The state of one thread (R9 to R21). -/
structure Thread where
  /-- The general registers R0, R1, ... by number (R10). RZ is not among them (R11). -/
  regs : Store 32
  /-- The predicate registers P0 to P6 (R14). PT is not among them. -/
  preds : Vector Bool 7
  /-- The program counter (R15). -/
  pc : Nat
  /-- The pixel's raster coverage is 0 (R19). -/
  helper : Bool
  /-- The pixel has been killed (R19). -/
  killed : Bool
  /-- The fault record: the error and its effective address (R21, R166). -/
  fault : Option (ErrorKind × DWord)
  /-- The scoreboards that are pending (R20, R183). No rule reads or writes it (DEDUCED, log 18). -/
  scoreboards : List Nat
  /-- The events that have taken effect ahead of their turn: the model's own field (R38, DEDUCED, log 17). -/
  early : List Early
deriving DecidableEq, Repr

/-- Global memory: the bytes that are not zero, by address (R17, DESIGN CHOICE, log 6). -/
abbrev Memory := List Host.Cell

/-- The state of the machine. -/
structure State where
  /-- Global memory, shared by all threads (R17). -/
  mem : Memory
  /-- THREADS (R4, R172). -/
  threads : List Thread
  /-- The launch parameters. -/
  launch : Launch
  /-- The thread whose instruction is executing: the model's own field (DESIGN CHOICE, log 11). -/
  cur : Nat
  /-- The scheduling choices to come: the model's own field (DESIGN CHOICE, log 11). -/
  schedule : List Choice
  /-- How many free values have been drawn: the model's own field (DESIGN CHOICE, log 12). -/
  draws : Nat
deriving DecidableEq, Repr

/-- The thread that is executing. -/
def State.thread (s : State) : Option Thread := s.threads[s.cur]?

/-- The executing thread replaced. -/
def State.setThread (s : State) (th : Thread) : State := { s with threads := s.threads.set s.cur th }

/-- Global memory replaced. -/
def State.setMem (s : State) (m : Memory) : State := { s with mem := m }

/-- A thread at launch. The fault record and the scoreboards are as R180 says; no event is ahead of its turn, since
nothing has been executed (DEDUCED, log 17); every other value is the model's DESIGN CHOICE (log 4, 5, 7, 9). -/
def Thread.reset : Thread where
  regs := []
  preds := Vector.replicate 7 false
  pc := 0
  helper := false
  killed := false
  fault := none
  scoreboards := []
  early := []

/-- The launch parameters at reset. SPA_VERSION is 5.0 (R4) and ATOM_ORDERING relaxed (R38, D15); every other value is the
model's DESIGN CHOICE, NUM_GPR PRESUMED (log 7, 8, 9). -/
def Launch.reset : Launch where
  program := []
  allocated := []
  localWindow := []
  sharedWindow := []
  pageSize := 4096
  sparsePages := []
  isPixelShader := false
  numGpr := 255
  ilen := 1
  spa := ⟨5, 0⟩
  ordering := .relaxed

/-- The machine right after reset (R180): one thread, nothing launched. -/
def State.reset : State where
  mem := []
  threads := [Thread.reset]
  launch := Launch.reset
  cur := 0
  schedule := []
  draws := 0

end Sys2Proof.Machine
end

