-- ==== Sys2Proof/Machine/Num.lean ====
section
/-!
DEFINITION. The numerics record NUM of R4: floating-point addition (R133) and half-precision minimum and maximum (R134). Values are
bit patterns of the IEEE 754 binary formats; sums are exact integers in units of the format's least subnormal, rounded once to
nearest with ties to even. What R133 and R134 leave open is a free value of Config (DESIGN CHOICE, log 13).
-/

namespace Sys2Proof.Machine

/-- A binary interchange format: exponent and fraction widths (R133). -/
structure FloatFormat where
  expBits : Nat
  fracBits : Nat
deriving DecidableEq, Repr

/-- binary16: 5 exponent bits, 10 fraction bits. -/
def binary16 : FloatFormat := ⟨5, 10⟩

/-- binary32: 8 exponent bits, 23 fraction bits. -/
def binary32 : FloatFormat := ⟨8, 23⟩

/-- binary64: 11 exponent bits, 52 fraction bits. -/
def binary64 : FloatFormat := ⟨11, 52⟩

/-- The weight of the sign bit in a pattern. -/
def FloatFormat.signBit (F : FloatFormat) : Nat := 2 ^ (F.expBits + F.fracBits)

/-- The pattern of +infinity: all exponent bits, no fraction bit. -/
def FloatFormat.infinity (F : FloatFormat) : Nat := (2 ^ F.expBits - 1) * 2 ^ F.fracBits

/-- The pattern without its sign. -/
def FloatFormat.magnitude (F : FloatFormat) (x : Nat) : Nat := x % F.signBit

/-- The sign bit is set. -/
def FloatFormat.negative (F : FloatFormat) (x : Nat) : Bool := decide (x / F.signBit % 2 = 1)

/-- The pattern is a NaN. -/
def FloatFormat.isNaN (F : FloatFormat) (x : Nat) : Bool := decide (F.infinity < F.magnitude x)

/-- The pattern is an infinity. -/
def FloatFormat.isInf (F : FloatFormat) (x : Nat) : Bool := decide (F.magnitude x = F.infinity)

/-- The pattern is subnormal: exponent field 0, fraction not 0. -/
def FloatFormat.isSubnormal (F : FloatFormat) (x : Nat) : Bool :=
  decide (0 < F.magnitude x) && decide (F.magnitude x < 2 ^ F.fracBits)

/-- A sign and a magnitude as a pattern. -/
def FloatFormat.signed (F : FloatFormat) (neg : Bool) (mag : Nat) : Nat := (if neg then F.signBit else 0) + mag

/-- A subnormal replaced by the zero of its sign (R133 (a), (e)). -/
def FloatFormat.flush (F : FloatFormat) (x : Nat) : Nat := if F.isSubnormal x then F.signed (F.negative x) 0 else x

/-- The value of a finite magnitude, in units of the least subnormal. -/
def FloatFormat.units (F : FloatFormat) (mag : Nat) : Nat :=
  if mag < 2 ^ F.fracBits then mag
  else (2 ^ F.fracBits + mag % 2 ^ F.fracBits) * 2 ^ (mag / 2 ^ F.fracBits - 1)

/-- The value of a finite pattern, in units of the least subnormal. -/
def FloatFormat.value (F : FloatFormat) (x : Nat) : Int :=
  if F.negative x then -(F.units (F.magnitude x) : Int) else (F.units (F.magnitude x) : Int)

/-- `n / 2^k` rounded to nearest, ties to even. -/
def roundShift (n k : Nat) : Nat :=
  if 2 * (n % 2 ^ k) < 2 ^ k ∨ (2 * (n % 2 ^ k) = 2 ^ k ∧ n / 2 ^ k % 2 = 0) then n / 2 ^ k else n / 2 ^ k + 1

/-- The magnitude nearest to `n` units, ties to even; too large a value gives infinity (R133 (c)). -/
def FloatFormat.round (F : FloatFormat) (n : Nat) : Nat :=
  if n < 2 ^ (F.fracBits + 1) then n
  else min ((Nat.log2 n - F.fracBits) * 2 ^ F.fracBits + roundShift n (Nat.log2 n - F.fracBits)) F.infinity

/-- The sum of two finite patterns (R133 (c), (d)). -/
def FloatFormat.addFinite (F : FloatFormat) (x y : Nat) : Nat :=
  let sum := F.value x + F.value y
  if sum = 0 then F.signed (F.negative x && F.negative y) 0 else F.signed (decide (sum < 0)) (F.round sum.natAbs)

/-- The sum of two patterns, or none where the result is some NaN (R133). -/
def FloatFormat.add (F : FloatFormat) (x y : Nat) : Option Nat :=
  if F.isNaN x || F.isNaN y then none
  else if F.isInf x then (if F.isInf y && (F.negative x != F.negative y) then none else some x)
  else if F.isInf y then some y
  else some (F.addFinite x y)

/-- The sum with subnormal operands and results flushed (R133 (a), (e)). -/
def FloatFormat.addFlushed (F : FloatFormat) (x y : Nat) : Option Nat := (F.add (F.flush x) (F.flush y)).map F.flush

/-- The free value as a NaN of the format: every NaN is reached, from itself. -/
def FloatFormat.someNaN (F : FloatFormat) (free : Nat) : Nat :=
  if F.isNaN free then free else F.infinity + 2 ^ (F.fracBits - 1)

/-- NUM.fadd16_rn (R133). -/
def fadd16 (a b : Half) : Half :=
  BitVec.ofNat 16 ((binary16.add a.toNat b.toNat).getD (binary16.someNaN (Config.nan16 a b).toNat))

/-- NUM.fadd32_ftz_rn (R133). -/
def fadd32 (a b : Word) : Word :=
  BitVec.ofNat 32 ((binary32.addFlushed a.toNat b.toNat).getD (binary32.someNaN (Config.nan32 a b).toNat))

/-- NUM.fadd64_rn (R133). -/
def fadd64 (a b : DWord) : DWord :=
  BitVec.ofNat 64 ((binary64.add a.toNat b.toNat).getD (binary64.someNaN (Config.nan64 a b).toNat))

/-- The numeric order of halves that are no NaN: magnitudes order as patterns, zeros of both signs are equal. -/
def halfKey (x : Half) : Int :=
  if binary16.negative x.toNat then -(binary16.magnitude x.toNat : Int) else (binary16.magnitude x.toNat : Int)

/-- The half is a NaN. -/
def halfIsNaN (x : Half) : Bool := binary16.isNaN x.toNat

/-- Either zero, as the free value's sign bit says (U2: "either zero"). -/
def eitherZero (free : Half) : Half := free &&& 0x8000#16

/-- NUM.fmin16 (R134). -/
def fmin16 (a b : Half) : Half :=
  if halfIsNaN a || halfIsNaN b then Config.openMin16 a b
  else if halfKey a < halfKey b then a
  else if halfKey b < halfKey a then b
  else if a = b then a
  else eitherZero (Config.openMin16 a b)

/-- NUM.fmax16 (R134). -/
def fmax16 (a b : Half) : Half :=
  if halfIsNaN a || halfIsNaN b then Config.openMax16 a b
  else if halfKey b < halfKey a then a
  else if halfKey a < halfKey b then b
  else if a = b then a
  else eitherZero (Config.openMax16 a b)

end Sys2Proof.Machine
end

