-- ==== Sys2Proof/Machine/Alu.lean ====
section
/-!
DEFINITION. The operation functions `f(m, b)` and `f(m, b, c)` of 41_atom_ops.md and 42_atom_cas.md: `m` is the prior memory value, `b` the
value of Rb, `c` that of Rc. None writes a flag or raises an arithmetic error (R100, R132).
-/

namespace Sys2Proof.Machine

/-- ADD on integers: the sum modulo 2^w (R101, R102, R103, R132). -/
def aluAdd {w : Nat} (m b : BitVec w) : BitVec w := BitVec.ofNat w (m.toNat + b.toNat)

/-- MIN of unsigned numbers (R107, R109). -/
def aluMinU {w : Nat} (m b : BitVec w) : BitVec w := if m.toNat ≤ b.toNat then m else b

/-- MIN of two's-complement numbers (R108, R110). -/
def aluMinS {w : Nat} (m b : BitVec w) : BitVec w := if m.toInt ≤ b.toInt then m else b

/-- MAX of unsigned numbers (R112, R114). -/
def aluMaxU {w : Nat} (m b : BitVec w) : BitVec w := if b.toNat ≤ m.toNat then m else b

/-- MAX of two's-complement numbers (R113, R115). -/
def aluMaxS {w : Nat} (m b : BitVec w) : BitVec w := if b.toInt ≤ m.toInt then m else b

/-- INC (R117). -/
def aluInc (m b : Word) : Word := if b.toNat ≤ m.toNat then 0#32 else m + 1#32

/-- DEC (R118). -/
def aluDec (m b : Word) : Word := if m = 0#32 ∨ b.toNat < m.toNat then b else m - 1#32

/-- AND, bit by bit (R119, R120, R121). -/
def aluAnd {w : Nat} (m b : BitVec w) : BitVec w := m &&& b

/-- OR, bit by bit (R122, R123, R124). -/
def aluOr {w : Nat} (m b : BitVec w) : BitVec w := m ||| b

/-- XOR, bit by bit (R125, R126, R127). -/
def aluXor {w : Nat} (m b : BitVec w) : BitVec w := m ^^^ b

/-- CAS: the swap value where memory equals the compare value (R140). -/
def aluCas {w : Nat} (m b c : BitVec w) : BitVec w := if m = b then c else m

/-- A function of halves applied to the high and to the low halves, each for itself (R46). -/
def onHalves (f : Half → Half → Half) (m b : Word) : Word :=
  f (m.extractLsb' 16 16) (b.extractLsb' 16 16) ++ f (m.extractLsb' 0 16) (b.extractLsb' 0 16)

end Sys2Proof.Machine
end

