-- ==== Sys2Proof/Machine/Ops.lean ====
section
/-!
DEFINITION. The named operations over the state: the store, global memory, general registers, the launch's address sets, fetch,
and the one operation that raises an error (R166). There is no return from an error (R167).
-/

namespace Sys2Proof.Machine

/-- What an instruction or a step answers. -/
abbrev Out := Host.Outcome State Fault Refusal

/-! ### The store -/

/-- The value of number `a`: zero where it is not listed. -/
def storeGet {w : Nat} (a : Nat) : Store w → BitVec w
  | [] => 0#w
  | (k, v) :: t => if k = a then v else storeGet a t

/-- The store without number `a`. -/
def storeErase {w : Nat} (a : Nat) (m : Store w) : Store w := m.filter fun p => decide (p.1 ≠ a)

/-- The pair put before the first greater number. -/
def storeInsert {w : Nat} (a : Nat) (v : BitVec w) : Store w → Store w
  | [] => [(a, v)]
  | (k, x) :: t => if a < k then (a, v) :: (k, x) :: t else (k, x) :: storeInsert a v t

/-- The store with `v` at number `a`: a zero is not listed, so that equal stores are equal data. -/
def storePut {w : Nat} (a : Nat) (v : BitVec w) (m : Store w) : Store w :=
  if v = 0#w then storeErase a m else storeInsert a v (storeErase a m)

/-- The canonical form: numbers strictly rising, no zero listed. -/
abbrev storeWf {w : Nat} (m : Store w) : Prop := m.Pairwise (fun p q => p.1 < q.1) ∧ ∀ p ∈ m, p.2 ≠ 0#w

/-! ### Global memory -/

/-- The byte of global memory at an address (R17, R32). An unlisted byte reads 0 (DESIGN CHOICE, log 6). -/
def readByte (m : Memory) (a : Nat) : Byte := storeGet (w := 8) a m

/-- A byte of global memory stored (R32). -/
def writeByte (m : Memory) (a : Nat) (v : Byte) : Memory := storePut (w := 8) a v m

/-- The memory is in canonical form. -/
abbrev Memory.wf (m : Memory) : Prop := storeWf (w := 8) m

/-- MemRead(a, 4): little-endian (R30, R32). -/
def read32 (m : Memory) (a : Nat) : Word :=
  readByte m (a + 3) ++ readByte m (a + 2) ++ readByte m (a + 1) ++ readByte m a

/-- MemWrite(a, 4, v): byte k gets bits 8k+7 to 8k (R32). -/
def write32 (m : Memory) (a : Nat) (v : Word) : Memory :=
  let m := writeByte m a (v.extractLsb' 0 8)
  let m := writeByte m (a + 1) (v.extractLsb' 8 8)
  let m := writeByte m (a + 2) (v.extractLsb' 16 8)
  writeByte m (a + 3) (v.extractLsb' 24 8)

/-- MemRead(a, 8) (R30, R32, R47). -/
def read64 (m : Memory) (a : Nat) : DWord := read32 m (a + 4) ++ read32 m a

/-- MemWrite(a, 8, v) (R32, R47). -/
def write64 (m : Memory) (a : Nat) (v : DWord) : Memory :=
  write32 (write32 m a (v.extractLsb' 0 32)) (a + 4) (v.extractLsb' 32 32)

/-! ### General registers -/

/-- x[r]: RZ reads 0 (R11). -/
def readReg (regs : Store 32) : Reg → Word
  | .r n => storeGet n regs
  | .rz => 0#32

/-- x[r] <- v: a write to RZ is discarded (R11). -/
def writeReg (regs : Store 32) (r : Reg) (v : Word) : Store 32 :=
  match r with
  | .r n => storePut n v regs
  | .rz => regs

/-- x64[r]: the pair, the lower-numbered register in bits 31 to 0 (R12); RZ reads 64 zero bits (R11). -/
def readPair (regs : Store 32) : Reg → DWord
  | .r n => storeGet (n + 1) regs ++ storeGet n regs
  | .rz => 0#64

/-- x64[r] <- v (R6, R12); a write to RZ is discarded whole (R11). -/
def writePair (regs : Store 32) (r : Reg) (v : DWord) : Store 32 :=
  match r with
  | .r n => storePut (n + 1) (v.extractLsb' 32 32) (storePut n (v.extractLsb' 0 32) regs)
  | .rz => regs

/-! ### The launch's address sets -/

/-- The address is in one of the regions. -/
def inRegions (rs : List Region) (a : Nat) : Bool := rs.any fun r => decide (r.base ≤ a) && decide (a < r.base + r.size)

/-- The addresses of the `n` bytes of an access at `ea`, as plain numbers: no wrap (R5, DEDUCED, log 21). -/
def accessBytes (ea : DWord) (n : Nat) : List Nat := (List.range n).map fun k => ea.toNat + k

/-- Some byte of the access is in the Local or in the Shared window (R35). -/
def inWindow (L : Launch) (ea : DWord) (n : Nat) : Bool :=
  (accessBytes ea n).any fun a => inRegions L.localWindow a || inRegions L.sharedWindow a

/-- The effective address is not a multiple of the access size (R33). -/
def misaligned (ea : DWord) (n : Nat) : Bool := decide (ea.toNat % n ≠ 0)

/-- Some byte of the access is not in ALLOCATED (R34). -/
def outOfRange (L : Launch) (ea : DWord) (n : Nat) : Bool := (accessBytes ea n).any fun a => !inRegions L.allocated a

/-- SPARSE(ea): the page that holds the effective address is marked (R18, R151). -/
def sparseAt (L : Launch) (ea : DWord) : Bool := L.sparsePages.contains (ea.toNat / L.pageSize)

/-- The errors that apply to the access, of the three of R88. -/
def applicableErrors (L : Launch) (ea : DWord) (n : Nat) : List ErrorKind :=
  (if inWindow L ea n then [.invalidAddressSpace] else []) ++ (if misaligned ea n then [.misalignedAddress] else []) ++
    if outOfRange L ea n then [.addressOutOfRange] else []

/-! ### Errors -/

/-- Any one of the errors that apply, chosen freely each time (R165): the free value picks, unless only one applies. -/
def chooseError (e : ErrorKind) (es : List ErrorKind) (draws : Nat) : ErrorKind :=
  match es with
  | [] => e
  | e' :: es' => (e :: e' :: es').getD (Config.freeError draws % (es'.length + 2)) e

/-- Taking an error (R166): the thread's fault record becomes the error and the effective address; memory, registers, predicates and
the pc stay. `e :: es` are the errors that apply. -/
def raiseError (s : State) (th : Thread) (e : ErrorKind) (es : List ErrorKind) (ea : DWord) : State :=
  { s.setThread { th with fault := some (chooseError e es s.draws, ea) } with draws := s.draws + 1 }

/-- The number by which an error is reported (R164: open). -/
def ErrorKind.code : ErrorKind → Nat
  | .invalidAddressSpace => Config.errCodeInvalidAddressSpace
  | .misalignedAddress => Config.errCodeMisalignedAddress
  | .addressOutOfRange => Config.errCodeAddressOutOfRange

/-! ### The program counter and fetch -/

/-- pc <- pc + ILEN (R91). -/
def advancePc (L : Launch) (th : Thread) : Thread := { th with pc := th.pc + L.ilen }

/-- The statement at a pc: statement number k stands at `k * ilen` (R15, R189, DESIGN CHOICE, log 9). -/
def fetchText (L : Launch) (pc : Nat) : Option Text := if pc % L.ilen = 0 then L.program[pc / L.ilen]? else none

/-- The pc of the end of the program text (R189). -/
def endPc (L : Launch) : Nat := L.program.length * L.ilen

end Sys2Proof.Machine
end

