-- ==== Sys2Proof/Machine/Flags.lean ====
section
/-!
DEFINITION. The one-bit state an ATOM reads and writes: the predicate registers (R14), the guard (R81), participation (R82). ATOM
computes no condition flag and writes no exception flag (R100, R22, R133): the only bit it writes is Ps (R151).
-/

namespace Sys2Proof.Machine

/-- p[i]: PT reads 1 (R14). -/
def readPred (preds : Vector Bool 7) : PredReg → Bool
  | .p k => preds[k]
  | .pt => true

/-- p[i] <- b: a write to PT is discarded (R14). -/
def writePred (preds : Vector Bool 7) (p : PredReg) (b : Bool) : Vector Bool 7 :=
  match p with
  | .p k => preds.set k b
  | .pt => preds

/-- GuardTrue (R81). -/
def guardTrue (g : Guard) (preds : Vector Bool 7) : Bool := readPred preds g.pg ^^ g.neg

/-- Participates (R82): in a pixel shader a helper or killed pixel does not. -/
def participates (L : Launch) (th : Thread) : Bool := !(L.isPixelShader && (th.helper || th.killed))

/-- The thread executes the instruction: steps 1 and 2 of R80 let it through. -/
def active (L : Launch) (th : Thread) (I : AtomInstr) : Bool := guardTrue I.common.guard th.preds && participates L th

end Sys2Proof.Machine
end

