-- ==== Sys2Proof/Machine/Operands.lean ====
section
/-!
DEFINITION. Every operand form of ATOM: the effective address of each form (R84 to R87), and what the instruction writes back, Rd
(R90) and Ps (R151).
-/

namespace Sys2Proof.Machine

/-- A 32-bit address zero-extended to 40 bits (R84), as the 64-bit value of R16. -/
def zext40 {w : Nat} (a : BitVec w) : DWord := (a.setWidth 40).setWidth 64

/-- The effective address: form RI (R84, R85), form ABS (R86), form SP (R87, R152). -/
def effectiveAddress (I : AtomInstr) (regs : Store 32) : DWord :=
  match I.addr with
  | .ri ra imm =>
    if I.common.e then readPair regs ra + imm.signExtend 64 else zext40 (readReg regs ra + imm.signExtend 32)
  | .abs imm => if I.common.e then imm.setWidth 64 else zext40 imm
  | .sp _ ra => if I.common.e then readPair regs ra else zext40 (readReg regs ra)

/-- The write of Ps, in the sparse forms alone (R151, R154). -/
def writePs (I : AtomInstr) (preds : Vector Bool 7) (status : Bool) : Vector Bool 7 :=
  match I.addr with
  | .sp ps _ => writePred preds ps status
  | _ => preds

/-- The thread after steps 8 and 9 of R80: `regs` with Rd written, Ps written, the pc advanced. -/
def retire (L : Launch) (I : AtomInstr) (th : Thread) (regs : Store 32) (status : Bool) : Thread :=
  advancePc L { th with regs := regs, preds := writePs I th.preds status }

/-- The numbers of the registers that one operand of the instruction's size names (R12). -/
def dataRegs (sz : Sz) : Reg → List Nat
  | .r n => if sz.bytes = 8 then [n, n + 1] else [n]
  | .rz => []

/-- The numbers of the registers the address operand reads (R13). -/
def baseRegs (I : AtomInstr) : List Nat :=
  match I.addr.base with
  | some (.r n) => if I.common.e then [n, n + 1] else [n]
  | _ => []

/-- The numbers of the registers the instruction reads (R13). -/
def sourceRegs (I : AtomInstr) : List Nat := baseRegs I ++ dataRegs I.sz I.rb ++ dataRegs I.sz I.rc

/-- The numbers of the registers the instruction writes: Rd (R13). -/
def destRegs (I : AtomInstr) : List Nat := dataRegs I.sz I.rd

/-- The predicate registers the instruction writes: Ps, unless it is PT (R151, R154). -/
def destPreds (I : AtomInstr) : List (Fin 7) :=
  match I.addr with
  | .sp (.p k) _ => [k]
  | _ => []

end Sys2Proof.Machine
end

