-- ==== Sys2Proof/Machine/Atom.lean ====
section
/-!
DEFINITION. The execution that every form of ATOM shares (40_atom_common.md, R80). The meanings of the 102 instructions call it with
their operation function.
-/

namespace Sys2Proof.Machine

/-- Steps 1 to 6 of R80 for a well-formed instruction: a false guard (R81) or a thread that does not participate (R82) advances the
pc only; an error that applies is raised (R88, R166); an access to a sparse page is refused (R153, R155, log 15); else `event` is
step 7 and what follows, given the thread and the effective address. An instruction that is not well formed is refused (R75). -/
def execChecked (I : AtomInstr) (s : State) (event : Thread → DWord → Out) : Out :=
  match I.firstProblem s.launch.numGpr s.launch.spa with
  | some why => .refused (.illFormed why)
  | none =>
    match s.thread with
    | none => .fault .noSuchThread
    | some th =>
      if active s.launch th I then
        match applicableErrors s.launch (effectiveAddress I th.regs) I.sz.bytes with
        | e :: es => .next (raiseError s th e es (effectiveAddress I th.regs))
        | [] =>
          if sparseAt s.launch (effectiveAddress I th.regs) then .refused .sparsePage
          else event th (effectiveAddress I th.regs)
      else .next (s.setThread (advancePc s.launch th))

/-- Steps 7 to 9 of R80 on 4 bytes: one event on the word at `ea` (R36, R89), then Rd, Ps and the pc (R90, R151, R91). -/
def perform32 (I : AtomInstr) (f : Word → Word → Word → Word) (s : State) (th : Thread) (ea : DWord) : State :=
  let old := read32 s.mem ea.toNat
  let new := f old (readReg th.regs I.rb) (readReg th.regs I.rc)
  (s.setMem (write32 s.mem ea.toNat new)).setThread
    (retire s.launch I th (writeReg th.regs I.rd old) (sparseAt s.launch ea))

/-- Steps 7 to 9 of R80 on 8 bytes: Rb, Rc and Rd are pairs (R12, R83, R90). -/
def perform64 (I : AtomInstr) (f : DWord → DWord → DWord → DWord) (s : State) (th : Thread) (ea : DWord) : State :=
  let old := read64 s.mem ea.toNat
  let new := f old (readPair th.regs I.rb) (readPair th.regs I.rc)
  (s.setMem (write64 s.mem ea.toNat new)).setThread
    (retire s.launch I th (writePair th.regs I.rd old) (sparseAt s.launch ea))

/-- An ATOM of a 4-byte size with the operation function `f` (R80). -/
def atom32 (i : Instr) (f : Word → Word → Word → Word) (s : State) : Out :=
  execChecked i.record s fun th ea => .next (perform32 i.record f s th ea)

/-- An ATOM of an 8-byte size with the operation function `f` (R80). -/
def atom64 (i : Instr) (f : DWord → DWord → DWord → DWord) (s : State) : Out :=
  execChecked i.record s fun th ea => .next (perform64 i.record f s th ea)

end Sys2Proof.Machine
end

