-- ==== Sys2Proof/Machine/Add.lean ====
section
/-!
DEFINITION. The meanings of ATOM.ADD (R101 to R106), one for each instruction, over the shared execution of R80.
-/

namespace Sys2Proof.Machine

/-- ATOM.ADD.U32, form ATOM_RI (R101). -/
def execAddU32Ri (c : Common) (rd ra : Reg) (imm : BitVec 20) (rb : Reg) (s : State) : Out :=
  atom32 (.addU32Ri c rd ra imm rb) (fun m b _ => aluAdd m b) s

/-- ATOM.ADD.U32, form ATOM_ABS (R101). -/
def execAddU32Abs (c : Common) (rd : Reg) (imm : BitVec 20) (rb : Reg) (s : State) : Out :=
  atom32 (.addU32Abs c rd imm rb) (fun m b _ => aluAdd m b) s

/-- ATOM.ADD.U32, form ATOM_SP (R101). -/
def execAddU32Sp (c : Common) (ps : PredReg) (rd ra rb : Reg) (s : State) : Out :=
  atom32 (.addU32Sp c ps rd ra rb) (fun m b _ => aluAdd m b) s

/-- ATOM.ADD.S32, form ATOM_RI (R102). -/
def execAddS32Ri (c : Common) (rd ra : Reg) (imm : BitVec 20) (rb : Reg) (s : State) : Out :=
  atom32 (.addS32Ri c rd ra imm rb) (fun m b _ => aluAdd m b) s

/-- ATOM.ADD.S32, form ATOM_ABS (R102). -/
def execAddS32Abs (c : Common) (rd : Reg) (imm : BitVec 20) (rb : Reg) (s : State) : Out :=
  atom32 (.addS32Abs c rd imm rb) (fun m b _ => aluAdd m b) s

/-- ATOM.ADD.S32, form ATOM_SP (R102). -/
def execAddS32Sp (c : Common) (ps : PredReg) (rd ra rb : Reg) (s : State) : Out :=
  atom32 (.addS32Sp c ps rd ra rb) (fun m b _ => aluAdd m b) s

/-- ATOM.ADD.U64, form ATOM_RI (R103). -/
def execAddU64Ri (c : Common) (rd ra : Reg) (imm : BitVec 20) (rb : Reg) (s : State) : Out :=
  atom64 (.addU64Ri c rd ra imm rb) (fun m b _ => aluAdd m b) s

/-- ATOM.ADD.U64, form ATOM_ABS (R103). -/
def execAddU64Abs (c : Common) (rd : Reg) (imm : BitVec 20) (rb : Reg) (s : State) : Out :=
  atom64 (.addU64Abs c rd imm rb) (fun m b _ => aluAdd m b) s

/-- ATOM.ADD.U64, form ATOM_SP (R103). -/
def execAddU64Sp (c : Common) (ps : PredReg) (rd ra rb : Reg) (s : State) : Out :=
  atom64 (.addU64Sp c ps rd ra rb) (fun m b _ => aluAdd m b) s

/-- ATOM.ADD.F32.FTZ.RN, form ATOM_RI (R104). -/
def execAddF32Ri (c : Common) (rd ra : Reg) (imm : BitVec 20) (rb : Reg) (s : State) : Out :=
  atom32 (.addF32Ri c rd ra imm rb) (fun m b _ => fadd32 m b) s

/-- ATOM.ADD.F32.FTZ.RN, form ATOM_ABS (R104). -/
def execAddF32Abs (c : Common) (rd : Reg) (imm : BitVec 20) (rb : Reg) (s : State) : Out :=
  atom32 (.addF32Abs c rd imm rb) (fun m b _ => fadd32 m b) s

/-- ATOM.ADD.F32.FTZ.RN, form ATOM_SP (R104). -/
def execAddF32Sp (c : Common) (ps : PredReg) (rd ra rb : Reg) (s : State) : Out :=
  atom32 (.addF32Sp c ps rd ra rb) (fun m b _ => fadd32 m b) s

/-- ATOM.ADD.F16x2.RN, form ATOM_RI (R105). -/
def execAddF16x2Ri (c : Common) (rd ra : Reg) (imm : BitVec 20) (rb : Reg) (s : State) : Out :=
  atom32 (.addF16x2Ri c rd ra imm rb) (fun m b _ => onHalves fadd16 m b) s

/-- ATOM.ADD.F16x2.RN, form ATOM_ABS (R105). -/
def execAddF16x2Abs (c : Common) (rd : Reg) (imm : BitVec 20) (rb : Reg) (s : State) : Out :=
  atom32 (.addF16x2Abs c rd imm rb) (fun m b _ => onHalves fadd16 m b) s

/-- ATOM.ADD.F16x2.RN, form ATOM_SP (R105). -/
def execAddF16x2Sp (c : Common) (ps : PredReg) (rd ra rb : Reg) (s : State) : Out :=
  atom32 (.addF16x2Sp c ps rd ra rb) (fun m b _ => onHalves fadd16 m b) s

/-- ATOM.ADD.F64.RN, form ATOM_RI (R106). -/
def execAddF64Ri (c : Common) (rd ra : Reg) (imm : BitVec 20) (rb : Reg) (s : State) : Out :=
  atom64 (.addF64Ri c rd ra imm rb) (fun m b _ => fadd64 m b) s

/-- ATOM.ADD.F64.RN, form ATOM_ABS (R106). -/
def execAddF64Abs (c : Common) (rd : Reg) (imm : BitVec 20) (rb : Reg) (s : State) : Out :=
  atom64 (.addF64Abs c rd imm rb) (fun m b _ => fadd64 m b) s

/-- ATOM.ADD.F64.RN, form ATOM_SP (R106). -/
def execAddF64Sp (c : Common) (ps : PredReg) (rd ra rb : Reg) (s : State) : Out :=
  atom64 (.addF64Sp c ps rd ra rb) (fun m b _ => fadd64 m b) s

end Sys2Proof.Machine
end

