-- ==== Sys2Proof/Machine/Cas.lean ====
section
/-!
DEFINITION. The meanings of ATOM.CAS (R140 to R143), one for each instruction, over the shared execution of R80.
-/

namespace Sys2Proof.Machine

/-- ATOM.CAS.U32, form CAS_RI (R141). -/
def execCasU32Ri (c : Common) (rd ra : Reg) (imm : BitVec 20) (rb rc : Reg) (s : State) : Out :=
  atom32 (.casU32Ri c rd ra imm rb rc) aluCas s

/-- ATOM.CAS.U32, form CAS_ABS (R141). -/
def execCasU32Abs (c : Common) (rd : Reg) (imm : BitVec 20) (rb rc : Reg) (s : State) : Out :=
  atom32 (.casU32Abs c rd imm rb rc) aluCas s

/-- ATOM.CAS.U32, form CAS_SP (R141). -/
def execCasU32Sp (c : Common) (ps : PredReg) (rd ra rb rc : Reg) (s : State) : Out :=
  atom32 (.casU32Sp c ps rd ra rb rc) aluCas s

/-- ATOM.CAS.S32, form CAS_RI (R142). -/
def execCasS32Ri (c : Common) (rd ra : Reg) (imm : BitVec 20) (rb rc : Reg) (s : State) : Out :=
  atom32 (.casS32Ri c rd ra imm rb rc) aluCas s

/-- ATOM.CAS.S32, form CAS_ABS (R142). -/
def execCasS32Abs (c : Common) (rd : Reg) (imm : BitVec 20) (rb rc : Reg) (s : State) : Out :=
  atom32 (.casS32Abs c rd imm rb rc) aluCas s

/-- ATOM.CAS.S32, form CAS_SP (R142). -/
def execCasS32Sp (c : Common) (ps : PredReg) (rd ra rb rc : Reg) (s : State) : Out :=
  atom32 (.casS32Sp c ps rd ra rb rc) aluCas s

/-- ATOM.CAS.U64, form CAS_RI (R143). -/
def execCasU64Ri (c : Common) (rd ra : Reg) (imm : BitVec 20) (rb rc : Reg) (s : State) : Out :=
  atom64 (.casU64Ri c rd ra imm rb rc) aluCas s

/-- ATOM.CAS.U64, form CAS_ABS (R143). -/
def execCasU64Abs (c : Common) (rd : Reg) (imm : BitVec 20) (rb rc : Reg) (s : State) : Out :=
  atom64 (.casU64Abs c rd imm rb rc) aluCas s

/-- ATOM.CAS.U64, form CAS_SP (R143). -/
def execCasU64Sp (c : Common) (ps : PredReg) (rd ra rb rc : Reg) (s : State) : Out :=
  atom64 (.casU64Sp c ps rd ra rb rc) aluCas s

end Sys2Proof.Machine
end

