-- ==== Sys2Proof/Machine/Exch.lean ====
section
/-!
DEFINITION. The meanings of ATOM.EXCH (R128 to R130), one for each instruction, over the shared execution of R80.
-/

namespace Sys2Proof.Machine

/-- ATOM.EXCH.U32, form ATOM_RI (R128). -/
def execExchU32Ri (c : Common) (rd ra : Reg) (imm : BitVec 20) (rb : Reg) (s : State) : Out :=
  atom32 (.exchU32Ri c rd ra imm rb) (fun _ b _ => b) s

/-- ATOM.EXCH.U32, form ATOM_ABS (R128). -/
def execExchU32Abs (c : Common) (rd : Reg) (imm : BitVec 20) (rb : Reg) (s : State) : Out :=
  atom32 (.exchU32Abs c rd imm rb) (fun _ b _ => b) s

/-- ATOM.EXCH.U32, form ATOM_SP (R128). -/
def execExchU32Sp (c : Common) (ps : PredReg) (rd ra rb : Reg) (s : State) : Out :=
  atom32 (.exchU32Sp c ps rd ra rb) (fun _ b _ => b) s

/-- ATOM.EXCH.S32, form ATOM_RI (R129). -/
def execExchS32Ri (c : Common) (rd ra : Reg) (imm : BitVec 20) (rb : Reg) (s : State) : Out :=
  atom32 (.exchS32Ri c rd ra imm rb) (fun _ b _ => b) s

/-- ATOM.EXCH.S32, form ATOM_ABS (R129). -/
def execExchS32Abs (c : Common) (rd : Reg) (imm : BitVec 20) (rb : Reg) (s : State) : Out :=
  atom32 (.exchS32Abs c rd imm rb) (fun _ b _ => b) s

/-- ATOM.EXCH.S32, form ATOM_SP (R129). -/
def execExchS32Sp (c : Common) (ps : PredReg) (rd ra rb : Reg) (s : State) : Out :=
  atom32 (.exchS32Sp c ps rd ra rb) (fun _ b _ => b) s

/-- ATOM.EXCH.U64, form ATOM_RI (R130). -/
def execExchU64Ri (c : Common) (rd ra : Reg) (imm : BitVec 20) (rb : Reg) (s : State) : Out :=
  atom64 (.exchU64Ri c rd ra imm rb) (fun _ b _ => b) s

/-- ATOM.EXCH.U64, form ATOM_ABS (R130). -/
def execExchU64Abs (c : Common) (rd : Reg) (imm : BitVec 20) (rb : Reg) (s : State) : Out :=
  atom64 (.exchU64Abs c rd imm rb) (fun _ b _ => b) s

/-- ATOM.EXCH.U64, form ATOM_SP (R130). -/
def execExchU64Sp (c : Common) (ps : PredReg) (rd ra rb : Reg) (s : State) : Out :=
  atom64 (.exchU64Sp c ps rd ra rb) (fun _ b _ => b) s

end Sys2Proof.Machine
end

