-- ==== Sys2Proof/Machine/IncDec.lean ====
section
/-!
DEFINITION. The meanings of ATOM.INC and ATOM.DEC (R117, R118), one for each instruction, over the shared execution of R80.
-/

namespace Sys2Proof.Machine

/-- ATOM.INC.U32, form ATOM_RI (R117). -/
def execIncU32Ri (c : Common) (rd ra : Reg) (imm : BitVec 20) (rb : Reg) (s : State) : Out :=
  atom32 (.incU32Ri c rd ra imm rb) (fun m b _ => aluInc m b) s

/-- ATOM.INC.U32, form ATOM_ABS (R117). -/
def execIncU32Abs (c : Common) (rd : Reg) (imm : BitVec 20) (rb : Reg) (s : State) : Out :=
  atom32 (.incU32Abs c rd imm rb) (fun m b _ => aluInc m b) s

/-- ATOM.INC.U32, form ATOM_SP (R117). -/
def execIncU32Sp (c : Common) (ps : PredReg) (rd ra rb : Reg) (s : State) : Out :=
  atom32 (.incU32Sp c ps rd ra rb) (fun m b _ => aluInc m b) s

/-- ATOM.DEC.U32, form ATOM_RI (R118). -/
def execDecU32Ri (c : Common) (rd ra : Reg) (imm : BitVec 20) (rb : Reg) (s : State) : Out :=
  atom32 (.decU32Ri c rd ra imm rb) (fun m b _ => aluDec m b) s

/-- ATOM.DEC.U32, form ATOM_ABS (R118). -/
def execDecU32Abs (c : Common) (rd : Reg) (imm : BitVec 20) (rb : Reg) (s : State) : Out :=
  atom32 (.decU32Abs c rd imm rb) (fun m b _ => aluDec m b) s

/-- ATOM.DEC.U32, form ATOM_SP (R118). -/
def execDecU32Sp (c : Common) (ps : PredReg) (rd ra rb : Reg) (s : State) : Out :=
  atom32 (.decU32Sp c ps rd ra rb) (fun m b _ => aluDec m b) s

end Sys2Proof.Machine
end

