-- ==== Sys2Proof/Machine/Logic.lean ====
section
/-!
DEFINITION. The meanings of ATOM.AND, ATOM.OR and ATOM.XOR (R119 to R127), one for each instruction, over the shared execution of R80.
-/

namespace Sys2Proof.Machine

/-- ATOM.AND.U32, form ATOM_RI (R119). -/
def execAndU32Ri (c : Common) (rd ra : Reg) (imm : BitVec 20) (rb : Reg) (s : State) : Out :=
  atom32 (.andU32Ri c rd ra imm rb) (fun m b _ => aluAnd m b) s

/-- ATOM.AND.U32, form ATOM_ABS (R119). -/
def execAndU32Abs (c : Common) (rd : Reg) (imm : BitVec 20) (rb : Reg) (s : State) : Out :=
  atom32 (.andU32Abs c rd imm rb) (fun m b _ => aluAnd m b) s

/-- ATOM.AND.U32, form ATOM_SP (R119). -/
def execAndU32Sp (c : Common) (ps : PredReg) (rd ra rb : Reg) (s : State) : Out :=
  atom32 (.andU32Sp c ps rd ra rb) (fun m b _ => aluAnd m b) s

/-- ATOM.AND.S32, form ATOM_RI (R120). -/
def execAndS32Ri (c : Common) (rd ra : Reg) (imm : BitVec 20) (rb : Reg) (s : State) : Out :=
  atom32 (.andS32Ri c rd ra imm rb) (fun m b _ => aluAnd m b) s

/-- ATOM.AND.S32, form ATOM_ABS (R120). -/
def execAndS32Abs (c : Common) (rd : Reg) (imm : BitVec 20) (rb : Reg) (s : State) : Out :=
  atom32 (.andS32Abs c rd imm rb) (fun m b _ => aluAnd m b) s

/-- ATOM.AND.S32, form ATOM_SP (R120). -/
def execAndS32Sp (c : Common) (ps : PredReg) (rd ra rb : Reg) (s : State) : Out :=
  atom32 (.andS32Sp c ps rd ra rb) (fun m b _ => aluAnd m b) s

/-- ATOM.AND.U64, form ATOM_RI (R121). -/
def execAndU64Ri (c : Common) (rd ra : Reg) (imm : BitVec 20) (rb : Reg) (s : State) : Out :=
  atom64 (.andU64Ri c rd ra imm rb) (fun m b _ => aluAnd m b) s

/-- ATOM.AND.U64, form ATOM_ABS (R121). -/
def execAndU64Abs (c : Common) (rd : Reg) (imm : BitVec 20) (rb : Reg) (s : State) : Out :=
  atom64 (.andU64Abs c rd imm rb) (fun m b _ => aluAnd m b) s

/-- ATOM.AND.U64, form ATOM_SP (R121). -/
def execAndU64Sp (c : Common) (ps : PredReg) (rd ra rb : Reg) (s : State) : Out :=
  atom64 (.andU64Sp c ps rd ra rb) (fun m b _ => aluAnd m b) s

/-- ATOM.OR.U32, form ATOM_RI (R122). -/
def execOrU32Ri (c : Common) (rd ra : Reg) (imm : BitVec 20) (rb : Reg) (s : State) : Out :=
  atom32 (.orU32Ri c rd ra imm rb) (fun m b _ => aluOr m b) s

/-- ATOM.OR.U32, form ATOM_ABS (R122). -/
def execOrU32Abs (c : Common) (rd : Reg) (imm : BitVec 20) (rb : Reg) (s : State) : Out :=
  atom32 (.orU32Abs c rd imm rb) (fun m b _ => aluOr m b) s

/-- ATOM.OR.U32, form ATOM_SP (R122). -/
def execOrU32Sp (c : Common) (ps : PredReg) (rd ra rb : Reg) (s : State) : Out :=
  atom32 (.orU32Sp c ps rd ra rb) (fun m b _ => aluOr m b) s

/-- ATOM.OR.S32, form ATOM_RI (R123). -/
def execOrS32Ri (c : Common) (rd ra : Reg) (imm : BitVec 20) (rb : Reg) (s : State) : Out :=
  atom32 (.orS32Ri c rd ra imm rb) (fun m b _ => aluOr m b) s

/-- ATOM.OR.S32, form ATOM_ABS (R123). -/
def execOrS32Abs (c : Common) (rd : Reg) (imm : BitVec 20) (rb : Reg) (s : State) : Out :=
  atom32 (.orS32Abs c rd imm rb) (fun m b _ => aluOr m b) s

/-- ATOM.OR.S32, form ATOM_SP (R123). -/
def execOrS32Sp (c : Common) (ps : PredReg) (rd ra rb : Reg) (s : State) : Out :=
  atom32 (.orS32Sp c ps rd ra rb) (fun m b _ => aluOr m b) s

/-- ATOM.OR.U64, form ATOM_RI (R124). -/
def execOrU64Ri (c : Common) (rd ra : Reg) (imm : BitVec 20) (rb : Reg) (s : State) : Out :=
  atom64 (.orU64Ri c rd ra imm rb) (fun m b _ => aluOr m b) s

/-- ATOM.OR.U64, form ATOM_ABS (R124). -/
def execOrU64Abs (c : Common) (rd : Reg) (imm : BitVec 20) (rb : Reg) (s : State) : Out :=
  atom64 (.orU64Abs c rd imm rb) (fun m b _ => aluOr m b) s

/-- ATOM.OR.U64, form ATOM_SP (R124). -/
def execOrU64Sp (c : Common) (ps : PredReg) (rd ra rb : Reg) (s : State) : Out :=
  atom64 (.orU64Sp c ps rd ra rb) (fun m b _ => aluOr m b) s

/-- ATOM.XOR.U32, form ATOM_RI (R125). -/
def execXorU32Ri (c : Common) (rd ra : Reg) (imm : BitVec 20) (rb : Reg) (s : State) : Out :=
  atom32 (.xorU32Ri c rd ra imm rb) (fun m b _ => aluXor m b) s

/-- ATOM.XOR.U32, form ATOM_ABS (R125). -/
def execXorU32Abs (c : Common) (rd : Reg) (imm : BitVec 20) (rb : Reg) (s : State) : Out :=
  atom32 (.xorU32Abs c rd imm rb) (fun m b _ => aluXor m b) s

/-- ATOM.XOR.U32, form ATOM_SP (R125). -/
def execXorU32Sp (c : Common) (ps : PredReg) (rd ra rb : Reg) (s : State) : Out :=
  atom32 (.xorU32Sp c ps rd ra rb) (fun m b _ => aluXor m b) s

/-- ATOM.XOR.S32, form ATOM_RI (R126). -/
def execXorS32Ri (c : Common) (rd ra : Reg) (imm : BitVec 20) (rb : Reg) (s : State) : Out :=
  atom32 (.xorS32Ri c rd ra imm rb) (fun m b _ => aluXor m b) s

/-- ATOM.XOR.S32, form ATOM_ABS (R126). -/
def execXorS32Abs (c : Common) (rd : Reg) (imm : BitVec 20) (rb : Reg) (s : State) : Out :=
  atom32 (.xorS32Abs c rd imm rb) (fun m b _ => aluXor m b) s

/-- ATOM.XOR.S32, form ATOM_SP (R126). -/
def execXorS32Sp (c : Common) (ps : PredReg) (rd ra rb : Reg) (s : State) : Out :=
  atom32 (.xorS32Sp c ps rd ra rb) (fun m b _ => aluXor m b) s

/-- ATOM.XOR.U64, form ATOM_RI (R127). -/
def execXorU64Ri (c : Common) (rd ra : Reg) (imm : BitVec 20) (rb : Reg) (s : State) : Out :=
  atom64 (.xorU64Ri c rd ra imm rb) (fun m b _ => aluXor m b) s

/-- ATOM.XOR.U64, form ATOM_ABS (R127). -/
def execXorU64Abs (c : Common) (rd : Reg) (imm : BitVec 20) (rb : Reg) (s : State) : Out :=
  atom64 (.xorU64Abs c rd imm rb) (fun m b _ => aluXor m b) s

/-- ATOM.XOR.U64, form ATOM_SP (R127). -/
def execXorU64Sp (c : Common) (ps : PredReg) (rd ra rb : Reg) (s : State) : Out :=
  atom64 (.xorU64Sp c ps rd ra rb) (fun m b _ => aluXor m b) s

end Sys2Proof.Machine
end

