-- ==== Sys2Proof/Machine/MinMax.lean ====
section
/-!
DEFINITION. The meanings of ATOM.MIN and ATOM.MAX (R107 to R116), one for each instruction, over the shared execution of R80.
-/

namespace Sys2Proof.Machine

/-- ATOM.MIN.U32, form ATOM_RI (R107). -/
def execMinU32Ri (c : Common) (rd ra : Reg) (imm : BitVec 20) (rb : Reg) (s : State) : Out :=
  atom32 (.minU32Ri c rd ra imm rb) (fun m b _ => aluMinU m b) s

/-- ATOM.MIN.U32, form ATOM_ABS (R107). -/
def execMinU32Abs (c : Common) (rd : Reg) (imm : BitVec 20) (rb : Reg) (s : State) : Out :=
  atom32 (.minU32Abs c rd imm rb) (fun m b _ => aluMinU m b) s

/-- ATOM.MIN.U32, form ATOM_SP (R107). -/
def execMinU32Sp (c : Common) (ps : PredReg) (rd ra rb : Reg) (s : State) : Out :=
  atom32 (.minU32Sp c ps rd ra rb) (fun m b _ => aluMinU m b) s

/-- ATOM.MIN.S32, form ATOM_RI (R108). -/
def execMinS32Ri (c : Common) (rd ra : Reg) (imm : BitVec 20) (rb : Reg) (s : State) : Out :=
  atom32 (.minS32Ri c rd ra imm rb) (fun m b _ => aluMinS m b) s

/-- ATOM.MIN.S32, form ATOM_ABS (R108). -/
def execMinS32Abs (c : Common) (rd : Reg) (imm : BitVec 20) (rb : Reg) (s : State) : Out :=
  atom32 (.minS32Abs c rd imm rb) (fun m b _ => aluMinS m b) s

/-- ATOM.MIN.S32, form ATOM_SP (R108). -/
def execMinS32Sp (c : Common) (ps : PredReg) (rd ra rb : Reg) (s : State) : Out :=
  atom32 (.minS32Sp c ps rd ra rb) (fun m b _ => aluMinS m b) s

/-- ATOM.MIN.U64, form ATOM_RI (R109). -/
def execMinU64Ri (c : Common) (rd ra : Reg) (imm : BitVec 20) (rb : Reg) (s : State) : Out :=
  atom64 (.minU64Ri c rd ra imm rb) (fun m b _ => aluMinU m b) s

/-- ATOM.MIN.U64, form ATOM_ABS (R109). -/
def execMinU64Abs (c : Common) (rd : Reg) (imm : BitVec 20) (rb : Reg) (s : State) : Out :=
  atom64 (.minU64Abs c rd imm rb) (fun m b _ => aluMinU m b) s

/-- ATOM.MIN.U64, form ATOM_SP (R109). -/
def execMinU64Sp (c : Common) (ps : PredReg) (rd ra rb : Reg) (s : State) : Out :=
  atom64 (.minU64Sp c ps rd ra rb) (fun m b _ => aluMinU m b) s

/-- ATOM.MIN.S64, form ATOM_RI (R110). -/
def execMinS64Ri (c : Common) (rd ra : Reg) (imm : BitVec 20) (rb : Reg) (s : State) : Out :=
  atom64 (.minS64Ri c rd ra imm rb) (fun m b _ => aluMinS m b) s

/-- ATOM.MIN.S64, form ATOM_ABS (R110). -/
def execMinS64Abs (c : Common) (rd : Reg) (imm : BitVec 20) (rb : Reg) (s : State) : Out :=
  atom64 (.minS64Abs c rd imm rb) (fun m b _ => aluMinS m b) s

/-- ATOM.MIN.S64, form ATOM_SP (R110). -/
def execMinS64Sp (c : Common) (ps : PredReg) (rd ra rb : Reg) (s : State) : Out :=
  atom64 (.minS64Sp c ps rd ra rb) (fun m b _ => aluMinS m b) s

/-- ATOM.MIN.F16x2.RN, form ATOM_RI (R111). -/
def execMinF16x2Ri (c : Common) (rd ra : Reg) (imm : BitVec 20) (rb : Reg) (s : State) : Out :=
  atom32 (.minF16x2Ri c rd ra imm rb) (fun m b _ => onHalves fmin16 m b) s

/-- ATOM.MIN.F16x2.RN, form ATOM_ABS (R111). -/
def execMinF16x2Abs (c : Common) (rd : Reg) (imm : BitVec 20) (rb : Reg) (s : State) : Out :=
  atom32 (.minF16x2Abs c rd imm rb) (fun m b _ => onHalves fmin16 m b) s

/-- ATOM.MIN.F16x2.RN, form ATOM_SP (R111). -/
def execMinF16x2Sp (c : Common) (ps : PredReg) (rd ra rb : Reg) (s : State) : Out :=
  atom32 (.minF16x2Sp c ps rd ra rb) (fun m b _ => onHalves fmin16 m b) s

/-- ATOM.MAX.U32, form ATOM_RI (R112). -/
def execMaxU32Ri (c : Common) (rd ra : Reg) (imm : BitVec 20) (rb : Reg) (s : State) : Out :=
  atom32 (.maxU32Ri c rd ra imm rb) (fun m b _ => aluMaxU m b) s

/-- ATOM.MAX.U32, form ATOM_ABS (R112). -/
def execMaxU32Abs (c : Common) (rd : Reg) (imm : BitVec 20) (rb : Reg) (s : State) : Out :=
  atom32 (.maxU32Abs c rd imm rb) (fun m b _ => aluMaxU m b) s

/-- ATOM.MAX.U32, form ATOM_SP (R112). -/
def execMaxU32Sp (c : Common) (ps : PredReg) (rd ra rb : Reg) (s : State) : Out :=
  atom32 (.maxU32Sp c ps rd ra rb) (fun m b _ => aluMaxU m b) s

/-- ATOM.MAX.S32, form ATOM_RI (R113). -/
def execMaxS32Ri (c : Common) (rd ra : Reg) (imm : BitVec 20) (rb : Reg) (s : State) : Out :=
  atom32 (.maxS32Ri c rd ra imm rb) (fun m b _ => aluMaxS m b) s

/-- ATOM.MAX.S32, form ATOM_ABS (R113). -/
def execMaxS32Abs (c : Common) (rd : Reg) (imm : BitVec 20) (rb : Reg) (s : State) : Out :=
  atom32 (.maxS32Abs c rd imm rb) (fun m b _ => aluMaxS m b) s

/-- ATOM.MAX.S32, form ATOM_SP (R113). -/
def execMaxS32Sp (c : Common) (ps : PredReg) (rd ra rb : Reg) (s : State) : Out :=
  atom32 (.maxS32Sp c ps rd ra rb) (fun m b _ => aluMaxS m b) s

/-- ATOM.MAX.U64, form ATOM_RI (R114). -/
def execMaxU64Ri (c : Common) (rd ra : Reg) (imm : BitVec 20) (rb : Reg) (s : State) : Out :=
  atom64 (.maxU64Ri c rd ra imm rb) (fun m b _ => aluMaxU m b) s

/-- ATOM.MAX.U64, form ATOM_ABS (R114). -/
def execMaxU64Abs (c : Common) (rd : Reg) (imm : BitVec 20) (rb : Reg) (s : State) : Out :=
  atom64 (.maxU64Abs c rd imm rb) (fun m b _ => aluMaxU m b) s

/-- ATOM.MAX.U64, form ATOM_SP (R114). -/
def execMaxU64Sp (c : Common) (ps : PredReg) (rd ra rb : Reg) (s : State) : Out :=
  atom64 (.maxU64Sp c ps rd ra rb) (fun m b _ => aluMaxU m b) s

/-- ATOM.MAX.S64, form ATOM_RI (R115). -/
def execMaxS64Ri (c : Common) (rd ra : Reg) (imm : BitVec 20) (rb : Reg) (s : State) : Out :=
  atom64 (.maxS64Ri c rd ra imm rb) (fun m b _ => aluMaxS m b) s

/-- ATOM.MAX.S64, form ATOM_ABS (R115). -/
def execMaxS64Abs (c : Common) (rd : Reg) (imm : BitVec 20) (rb : Reg) (s : State) : Out :=
  atom64 (.maxS64Abs c rd imm rb) (fun m b _ => aluMaxS m b) s

/-- ATOM.MAX.S64, form ATOM_SP (R115). -/
def execMaxS64Sp (c : Common) (ps : PredReg) (rd ra rb : Reg) (s : State) : Out :=
  atom64 (.maxS64Sp c ps rd ra rb) (fun m b _ => aluMaxS m b) s

/-- ATOM.MAX.F16x2.RN, form ATOM_RI (R116). -/
def execMaxF16x2Ri (c : Common) (rd ra : Reg) (imm : BitVec 20) (rb : Reg) (s : State) : Out :=
  atom32 (.maxF16x2Ri c rd ra imm rb) (fun m b _ => onHalves fmax16 m b) s

/-- ATOM.MAX.F16x2.RN, form ATOM_ABS (R116). -/
def execMaxF16x2Abs (c : Common) (rd : Reg) (imm : BitVec 20) (rb : Reg) (s : State) : Out :=
  atom32 (.maxF16x2Abs c rd imm rb) (fun m b _ => onHalves fmax16 m b) s

/-- ATOM.MAX.F16x2.RN, form ATOM_SP (R116). -/
def execMaxF16x2Sp (c : Common) (ps : PredReg) (rd ra rb : Reg) (s : State) : Out :=
  atom32 (.maxF16x2Sp c ps rd ra rb) (fun m b _ => onHalves fmax16 m b) s

end Sys2Proof.Machine
end

