-- ==== Sys2Proof/Machine/SafeAdd.lean ====
section
/-!
DEFINITION. The meanings of ATOM.SAFEADD (R131), one for each instruction, over the shared execution of R80.
The guard, participation, address, checks and errors are those of R80 up to step 6; the function of step 7 is not in
the source, and R131 refuses it (DEDUCED, log 14).
-/

namespace Sys2Proof.Machine

/-- ATOM.SAFEADD.U64, form ATOM_RI (R131). -/
def execSafeAddU64Ri (c : Common) (rd ra : Reg) (imm : BitVec 20) (rb : Reg) (s : State) : Out :=
  execChecked (Instr.record (.safeAddU64Ri c rd ra imm rb)) s fun _ _ => .refused .safeAddFormula

/-- ATOM.SAFEADD.U64, form ATOM_ABS (R131). -/
def execSafeAddU64Abs (c : Common) (rd : Reg) (imm : BitVec 20) (rb : Reg) (s : State) : Out :=
  execChecked (Instr.record (.safeAddU64Abs c rd imm rb)) s fun _ _ => .refused .safeAddFormula

/-- ATOM.SAFEADD.U64, form ATOM_SP (R131). -/
def execSafeAddU64Sp (c : Common) (ps : PredReg) (rd ra rb : Reg) (s : State) : Out :=
  execChecked (Instr.record (.safeAddU64Sp c ps rd ra rb)) s fun _ _ => .refused .safeAddFormula

end Sys2Proof.Machine
end

