-- ==== Sys2Proof/Machine/Dispatch.lean ====
section
/-!
DEFINITION. The dispatch: one arm per instruction, one direct call of its meaning.
-/

namespace Sys2Proof.Machine

open Sys2Proof

def exec (i : Instr) (s : State) : Host.Outcome State Fault Refusal :=
  match i with
  | .addU32Ri c rd ra imm rb => Sys2Proof.Machine.execAddU32Ri c rd ra imm rb s
  | .addU32Abs c rd imm rb => Sys2Proof.Machine.execAddU32Abs c rd imm rb s
  | .addU32Sp c ps rd ra rb => Sys2Proof.Machine.execAddU32Sp c ps rd ra rb s
  | .addS32Ri c rd ra imm rb => Sys2Proof.Machine.execAddS32Ri c rd ra imm rb s
  | .addS32Abs c rd imm rb => Sys2Proof.Machine.execAddS32Abs c rd imm rb s
  | .addS32Sp c ps rd ra rb => Sys2Proof.Machine.execAddS32Sp c ps rd ra rb s
  | .addU64Ri c rd ra imm rb => Sys2Proof.Machine.execAddU64Ri c rd ra imm rb s
  | .addU64Abs c rd imm rb => Sys2Proof.Machine.execAddU64Abs c rd imm rb s
  | .addU64Sp c ps rd ra rb => Sys2Proof.Machine.execAddU64Sp c ps rd ra rb s
  | .addF32Ri c rd ra imm rb => Sys2Proof.Machine.execAddF32Ri c rd ra imm rb s
  | .addF32Abs c rd imm rb => Sys2Proof.Machine.execAddF32Abs c rd imm rb s
  | .addF32Sp c ps rd ra rb => Sys2Proof.Machine.execAddF32Sp c ps rd ra rb s
  | .addF16x2Ri c rd ra imm rb => Sys2Proof.Machine.execAddF16x2Ri c rd ra imm rb s
  | .addF16x2Abs c rd imm rb => Sys2Proof.Machine.execAddF16x2Abs c rd imm rb s
  | .addF16x2Sp c ps rd ra rb => Sys2Proof.Machine.execAddF16x2Sp c ps rd ra rb s
  | .addF64Ri c rd ra imm rb => Sys2Proof.Machine.execAddF64Ri c rd ra imm rb s
  | .addF64Abs c rd imm rb => Sys2Proof.Machine.execAddF64Abs c rd imm rb s
  | .addF64Sp c ps rd ra rb => Sys2Proof.Machine.execAddF64Sp c ps rd ra rb s
  | .minU32Ri c rd ra imm rb => Sys2Proof.Machine.execMinU32Ri c rd ra imm rb s
  | .minU32Abs c rd imm rb => Sys2Proof.Machine.execMinU32Abs c rd imm rb s
  | .minU32Sp c ps rd ra rb => Sys2Proof.Machine.execMinU32Sp c ps rd ra rb s
  | .minS32Ri c rd ra imm rb => Sys2Proof.Machine.execMinS32Ri c rd ra imm rb s
  | .minS32Abs c rd imm rb => Sys2Proof.Machine.execMinS32Abs c rd imm rb s
  | .minS32Sp c ps rd ra rb => Sys2Proof.Machine.execMinS32Sp c ps rd ra rb s
  | .minU64Ri c rd ra imm rb => Sys2Proof.Machine.execMinU64Ri c rd ra imm rb s
  | .minU64Abs c rd imm rb => Sys2Proof.Machine.execMinU64Abs c rd imm rb s
  | .minU64Sp c ps rd ra rb => Sys2Proof.Machine.execMinU64Sp c ps rd ra rb s
  | .minS64Ri c rd ra imm rb => Sys2Proof.Machine.execMinS64Ri c rd ra imm rb s
  | .minS64Abs c rd imm rb => Sys2Proof.Machine.execMinS64Abs c rd imm rb s
  | .minS64Sp c ps rd ra rb => Sys2Proof.Machine.execMinS64Sp c ps rd ra rb s
  | .minF16x2Ri c rd ra imm rb => Sys2Proof.Machine.execMinF16x2Ri c rd ra imm rb s
  | .minF16x2Abs c rd imm rb => Sys2Proof.Machine.execMinF16x2Abs c rd imm rb s
  | .minF16x2Sp c ps rd ra rb => Sys2Proof.Machine.execMinF16x2Sp c ps rd ra rb s
  | .maxU32Ri c rd ra imm rb => Sys2Proof.Machine.execMaxU32Ri c rd ra imm rb s
  | .maxU32Abs c rd imm rb => Sys2Proof.Machine.execMaxU32Abs c rd imm rb s
  | .maxU32Sp c ps rd ra rb => Sys2Proof.Machine.execMaxU32Sp c ps rd ra rb s
  | .maxS32Ri c rd ra imm rb => Sys2Proof.Machine.execMaxS32Ri c rd ra imm rb s
  | .maxS32Abs c rd imm rb => Sys2Proof.Machine.execMaxS32Abs c rd imm rb s
  | .maxS32Sp c ps rd ra rb => Sys2Proof.Machine.execMaxS32Sp c ps rd ra rb s
  | .maxU64Ri c rd ra imm rb => Sys2Proof.Machine.execMaxU64Ri c rd ra imm rb s
  | .maxU64Abs c rd imm rb => Sys2Proof.Machine.execMaxU64Abs c rd imm rb s
  | .maxU64Sp c ps rd ra rb => Sys2Proof.Machine.execMaxU64Sp c ps rd ra rb s
  | .maxS64Ri c rd ra imm rb => Sys2Proof.Machine.execMaxS64Ri c rd ra imm rb s
  | .maxS64Abs c rd imm rb => Sys2Proof.Machine.execMaxS64Abs c rd imm rb s
  | .maxS64Sp c ps rd ra rb => Sys2Proof.Machine.execMaxS64Sp c ps rd ra rb s
  | .maxF16x2Ri c rd ra imm rb => Sys2Proof.Machine.execMaxF16x2Ri c rd ra imm rb s
  | .maxF16x2Abs c rd imm rb => Sys2Proof.Machine.execMaxF16x2Abs c rd imm rb s
  | .maxF16x2Sp c ps rd ra rb => Sys2Proof.Machine.execMaxF16x2Sp c ps rd ra rb s
  | .incU32Ri c rd ra imm rb => Sys2Proof.Machine.execIncU32Ri c rd ra imm rb s
  | .incU32Abs c rd imm rb => Sys2Proof.Machine.execIncU32Abs c rd imm rb s
  | .incU32Sp c ps rd ra rb => Sys2Proof.Machine.execIncU32Sp c ps rd ra rb s
  | .decU32Ri c rd ra imm rb => Sys2Proof.Machine.execDecU32Ri c rd ra imm rb s
  | .decU32Abs c rd imm rb => Sys2Proof.Machine.execDecU32Abs c rd imm rb s
  | .decU32Sp c ps rd ra rb => Sys2Proof.Machine.execDecU32Sp c ps rd ra rb s
  | .andU32Ri c rd ra imm rb => Sys2Proof.Machine.execAndU32Ri c rd ra imm rb s
  | .andU32Abs c rd imm rb => Sys2Proof.Machine.execAndU32Abs c rd imm rb s
  | .andU32Sp c ps rd ra rb => Sys2Proof.Machine.execAndU32Sp c ps rd ra rb s
  | .andS32Ri c rd ra imm rb => Sys2Proof.Machine.execAndS32Ri c rd ra imm rb s
  | .andS32Abs c rd imm rb => Sys2Proof.Machine.execAndS32Abs c rd imm rb s
  | .andS32Sp c ps rd ra rb => Sys2Proof.Machine.execAndS32Sp c ps rd ra rb s
  | .andU64Ri c rd ra imm rb => Sys2Proof.Machine.execAndU64Ri c rd ra imm rb s
  | .andU64Abs c rd imm rb => Sys2Proof.Machine.execAndU64Abs c rd imm rb s
  | .andU64Sp c ps rd ra rb => Sys2Proof.Machine.execAndU64Sp c ps rd ra rb s
  | .orU32Ri c rd ra imm rb => Sys2Proof.Machine.execOrU32Ri c rd ra imm rb s
  | .orU32Abs c rd imm rb => Sys2Proof.Machine.execOrU32Abs c rd imm rb s
  | .orU32Sp c ps rd ra rb => Sys2Proof.Machine.execOrU32Sp c ps rd ra rb s
  | .orS32Ri c rd ra imm rb => Sys2Proof.Machine.execOrS32Ri c rd ra imm rb s
  | .orS32Abs c rd imm rb => Sys2Proof.Machine.execOrS32Abs c rd imm rb s
  | .orS32Sp c ps rd ra rb => Sys2Proof.Machine.execOrS32Sp c ps rd ra rb s
  | .orU64Ri c rd ra imm rb => Sys2Proof.Machine.execOrU64Ri c rd ra imm rb s
  | .orU64Abs c rd imm rb => Sys2Proof.Machine.execOrU64Abs c rd imm rb s
  | .orU64Sp c ps rd ra rb => Sys2Proof.Machine.execOrU64Sp c ps rd ra rb s
  | .xorU32Ri c rd ra imm rb => Sys2Proof.Machine.execXorU32Ri c rd ra imm rb s
  | .xorU32Abs c rd imm rb => Sys2Proof.Machine.execXorU32Abs c rd imm rb s
  | .xorU32Sp c ps rd ra rb => Sys2Proof.Machine.execXorU32Sp c ps rd ra rb s
  | .xorS32Ri c rd ra imm rb => Sys2Proof.Machine.execXorS32Ri c rd ra imm rb s
  | .xorS32Abs c rd imm rb => Sys2Proof.Machine.execXorS32Abs c rd imm rb s
  | .xorS32Sp c ps rd ra rb => Sys2Proof.Machine.execXorS32Sp c ps rd ra rb s
  | .xorU64Ri c rd ra imm rb => Sys2Proof.Machine.execXorU64Ri c rd ra imm rb s
  | .xorU64Abs c rd imm rb => Sys2Proof.Machine.execXorU64Abs c rd imm rb s
  | .xorU64Sp c ps rd ra rb => Sys2Proof.Machine.execXorU64Sp c ps rd ra rb s
  | .exchU32Ri c rd ra imm rb => Sys2Proof.Machine.execExchU32Ri c rd ra imm rb s
  | .exchU32Abs c rd imm rb => Sys2Proof.Machine.execExchU32Abs c rd imm rb s
  | .exchU32Sp c ps rd ra rb => Sys2Proof.Machine.execExchU32Sp c ps rd ra rb s
  | .exchS32Ri c rd ra imm rb => Sys2Proof.Machine.execExchS32Ri c rd ra imm rb s
  | .exchS32Abs c rd imm rb => Sys2Proof.Machine.execExchS32Abs c rd imm rb s
  | .exchS32Sp c ps rd ra rb => Sys2Proof.Machine.execExchS32Sp c ps rd ra rb s
  | .exchU64Ri c rd ra imm rb => Sys2Proof.Machine.execExchU64Ri c rd ra imm rb s
  | .exchU64Abs c rd imm rb => Sys2Proof.Machine.execExchU64Abs c rd imm rb s
  | .exchU64Sp c ps rd ra rb => Sys2Proof.Machine.execExchU64Sp c ps rd ra rb s
  | .safeAddU64Ri c rd ra imm rb => Sys2Proof.Machine.execSafeAddU64Ri c rd ra imm rb s
  | .safeAddU64Abs c rd imm rb => Sys2Proof.Machine.execSafeAddU64Abs c rd imm rb s
  | .safeAddU64Sp c ps rd ra rb => Sys2Proof.Machine.execSafeAddU64Sp c ps rd ra rb s
  | .casU32Ri c rd ra imm rb rc => Sys2Proof.Machine.execCasU32Ri c rd ra imm rb rc s
  | .casU32Abs c rd imm rb rc => Sys2Proof.Machine.execCasU32Abs c rd imm rb rc s
  | .casU32Sp c ps rd ra rb rc => Sys2Proof.Machine.execCasU32Sp c ps rd ra rb rc s
  | .casS32Ri c rd ra imm rb rc => Sys2Proof.Machine.execCasS32Ri c rd ra imm rb rc s
  | .casS32Abs c rd imm rb rc => Sys2Proof.Machine.execCasS32Abs c rd imm rb rc s
  | .casS32Sp c ps rd ra rb rc => Sys2Proof.Machine.execCasS32Sp c ps rd ra rb rc s
  | .casU64Ri c rd ra imm rb rc => Sys2Proof.Machine.execCasU64Ri c rd ra imm rb rc s
  | .casU64Abs c rd imm rb rc => Sys2Proof.Machine.execCasU64Abs c rd imm rb rc s
  | .casU64Sp c ps rd ra rb rc => Sys2Proof.Machine.execCasU64Sp c ps rd ra rb rc s

end Sys2Proof.Machine
end

