-- ==== Sys2Proof/Machine/Ordering.lean ====
section
/-!
DEFINITION. The order in which one thread's events take effect (R38). A thread runs the instruction at its pc. Under the relaxed order
the event of a later instruction may take effect ahead of its turn, past instructions whose events have not; it gets no effect on
registers, predicates or pc until the pc reaches it. What stands in the way is what R38 and R166 name, and nothing else (R39):
an older instruction that writes a register the later one reads (R38 (4)), that addresses a byte of its location (R38 (3);
that one shared byte is enough is the model's DESIGN CHOICE, log 29), or that raises an error (R166). The machinery is the
model's (DEDUCED, log 17).
-/

namespace Sys2Proof.Machine

/-- Two accesses share a byte: they coincide, or one is a half of the other (R37 (c)). The order of one thread's events takes both for
the same location of R38 (3), although the rule does not place the second (DESIGN CHOICE, log 29). -/
def overlap (a : DWord) (n : Nat) (b : DWord) (m : Nat) : Bool :=
  decide (a.toNat < b.toNat + m) && decide (b.toNat < a.toNat + n)

/-- The access of `n` bytes at `ea` shares a byte with that of the event. -/
def Early.meets (e : Early) (ea : DWord) (n : Nat) : Bool := overlap e.address e.bytes ea n

/-- The event of the instruction at the thread's pc, where it has taken effect already. -/
def Thread.taken (th : Thread) : Option Early := th.early.find? fun e => e.pc == th.pc

/-- The well-formed instruction at a pc, if one can be read there. -/
def instrAt (L : Launch) (pc : Nat) : Option Instr :=
  match fetchText L pc with
  | none => none
  | some t =>
    match decode t with
    | .error _ => none
    | .ok i => if i.wf L.numGpr L.spa then some i else none

/-- Registers written with given values, one after the other. -/
def writeRegs (vs : List (Nat × Word)) (regs : Store 32) : Store 32 := vs.foldl (fun m v => storePut v.1 v.2 m) regs

/-- Predicates written with given values, one after the other. -/
def writePreds (vs : List (Fin 7 × Bool)) (preds : Vector Bool 7) : Vector Bool 7 :=
  vs.foldl (fun m v => writePred m (.p v.1) v.2) preds

/-- Steps 8 and 9 of R80 for an instruction whose event has taken effect: Rd, Ps and the pc. -/
def settle (L : Launch) (e : Early) (th : Thread) : Thread :=
  advancePc L
    { th with regs := writeRegs e.regs th.regs, preds := writePreds e.preds th.preds, early := th.early.erase e }

/-! ### Looking past instructions whose events have not taken effect -/

/-- A thread as a later instruction finds it, and what the instructions passed over, whose events have not taken effect, still do. -/
structure View where
  /-- The thread at the later instruction. What a register of `regs` holds in it is not known yet. -/
  thread : Thread
  /-- The registers that those instructions write. -/
  regs : List Nat
  /-- The predicates that they write. -/
  preds : List (Fin 7)
  /-- The addresses and sizes of their accesses, as far as the addresses are known. -/
  accesses : List (DWord × Nat)
deriving DecidableEq, Repr

/-- Nothing passed over. -/
def View.start (th : Thread) : View := ⟨th, [], [], []⟩

/-- The address of the instruction is known: it does not come from a register that an older one still has to write. -/
def View.knowsAddress (v : View) (I : AtomInstr) : Bool := (baseRegs I).all fun r => !v.regs.contains r

/-- The instruction reads a register, or its guard the predicate, that an older one still has to write. -/
def View.owes (v : View) (I : AtomInstr) : Bool :=
  (sourceRegs I).any v.regs.contains ||
    match I.common.guard.pg with
    | .p k => v.preds.contains k
    | .pt => false

/-- The instruction passed over, which the thread executes: its destinations are still to be written. Ps is to receive 0, since an
access to a sparse page is refused (R151, R153). -/
def View.pend (v : View) (L : Launch) (I : AtomInstr) (accesses : List (DWord × Nat)) : View where
  thread := advancePc L { v.thread with preds := writePs I v.thread.preds false }
  regs := destRegs I ++ v.regs
  preds := destPreds I ++ v.preds
  accesses := accesses ++ v.accesses

/-- Passing over the instruction that the view stands at. It is one that the thread comes to execute and to go on from, as far as that is
known: none is passed that cannot be read, is not well formed, raises an error (R166) or accesses a sparse page. -/
def passOver (L : Launch) (v : View) : Option View :=
  match instrAt L v.thread.pc with
  | none => none
  | some i =>
    match v.thread.taken with
    | some e => some { v with thread := settle L e v.thread }
    | none =>
      if active L v.thread i.record then
        if v.knowsAddress i.record then
          let ea := effectiveAddress i.record v.thread.regs
          if applicableErrors L ea i.record.sz.bytes = [] ∧ sparseAt L ea = false then
            some (v.pend L i.record [(ea, i.record.sz.bytes)])
          else none
        else some (v.pend L i.record [])
      else some { v with thread := advancePc L v.thread }

/-- Passing over `k` instructions. -/
def passMany (L : Launch) : Nat → View → Option View
  | 0, v => some v
  | k + 1, v =>
    match passOver L v with
    | none => none
    | some v' => passMany L k v'

/-- What the `k`-th instruction after the thread's pc finds. -/
def viewAhead (L : Launch) (th : Thread) (k : Nat) : Option View := passMany L k (View.start th)

/-- The event of the instruction that the view stands at may take effect: the thread executes the instruction, its event has not
taken effect yet, no older instruction still has to write what it reads (R38 (4)), it raises no error and its page is not
sparse, and it shares no byte with an older event still to come, nor with a younger one that went ahead (R38 (3);
that a half of a location counts as the same location is a DESIGN CHOICE, log 29). -/
def View.admits (v : View) (L : Launch) (I : AtomInstr) : Bool :=
  let ea := effectiveAddress I v.thread.regs
  active L v.thread I && v.thread.taken.isNone && !v.owes I && decide (applicableErrors L ea I.sz.bytes = []) && !sparseAt L ea &&
    v.accesses.all (fun p => !overlap p.1 p.2 ea I.sz.bytes) && v.thread.early.all (fun e => !e.meets ea I.sz.bytes)

/-! ### What a thread does in a step -/

/-- The instruction at the pc, in its turn, of a thread of which later events have taken effect. Where the order that they took is one
that no run has, the step says so: it shares a byte with one (R38 (3); that a half of a
location counts as the same location is a DESIGN CHOICE, log 29), or raises an error (R166). -/
def execBehind (i : Instr) (s : State) (th : Thread) : Out :=
  match exec i s with
  | .next s' =>
    match s'.thread with
    | none => .fault .noSuchThread
    | some th' =>
      if th'.fault.isSome then .fault .forbiddenOrder
      else if active s.launch th i.record &&
          th.early.any (fun e => e.meets (effectiveAddress i.record th.regs) i.record.sz.bytes) then .fault .forbiddenOrder
      else .next s'
  | out => out

/-- The thread goes on at its pc: it runs the instruction there, or, where the event of that has taken effect already, writes what it
returned. -/
def goOn (s : State) (th : Thread) : Out :=
  match fetchText s.launch th.pc with
  | none => .fault .noRunnableThread
  | some t =>
    match decode t with
    | .error why => .refused (.unreadable why)
    | .ok i =>
      match th.taken with
      | some e => .next (s.setThread (settle s.launch e th))
      | none => if th.early.isEmpty then exec i s else execBehind i s th

/-- The event of an instruction that took effect in the view, and left the thread as `done` is: what Rd and Ps are to receive. -/
def earlyOf (i : Instr) (before done : Thread) : Early where
  pc := before.pc
  address := effectiveAddress i.record before.regs
  bytes := i.record.sz.bytes
  regs := (destRegs i.record).map fun n => (n, storeGet n done.regs)
  preds := (destPreds i.record).map fun k => (k, readPred done.preds (.p k))

/-- The event of the instruction takes effect ahead of its turn: memory becomes what `exec` makes it for the thread that the view
shows, and what it returns is kept until the pc comes there. Without an event (R131) the thread goes on at its pc. -/
def takeEvent (i : Instr) (v : View) (s : State) (th : Thread) : Out :=
  match exec i (s.setThread v.thread) with
  | .next s' =>
    match s'.thread with
    | none => .fault .noSuchThread
    | some done => .next ((s.setMem s'.mem).setThread { th with early := th.early ++ [earlyOf i v.thread done] })
  | _ => goOn s th

/-- The event of the `k`-th instruction after the pc takes effect, where R38 and R166 allow that now; else the thread goes on at its
pc. -/
def goAhead (k : Nat) (s : State) (th : Thread) : Out :=
  match viewAhead s.launch th k with
  | none => goOn s th
  | some v =>
    match instrAt s.launch v.thread.pc with
    | none => goOn s th
    | some i => if v.admits s.launch i.record then takeEvent i v s th else goOn s th

/-- The executing thread does `act`: what ATOM_ORDERING allows of it (R38). -/
def act (a : Act) (s : State) : Out :=
  match s.thread with
  | none => .fault .noSuchThread
  | some th =>
    match s.launch.ordering, a with
    | .programOrder, _ => goOn s th
    | .relaxed, .run => goOn s th
    | .relaxed, .ahead k => goAhead k s th

end Sys2Proof.Machine
end

