-- ==== Sys2Proof/Machine/Threads.lean ====
section
/-!
DEFINITION. Which thread takes the next step (R172): any one that has not faulted and has an instruction to execute.
The choice is the head of `State.schedule`, or a free value where the schedule is empty (DESIGN CHOICE, log 11).
-/

namespace Sys2Proof.Machine

/-- The thread can take a step: it has not faulted (R166) and has an instruction to execute (R172, R189). -/
def canStep (L : Launch) (th : Thread) : Bool :=
  th.fault.isNone && (fetchText L th.pc).isSome

/-- The numbers of the threads that can take a step. -/
def runnable (s : State) : List Nat :=
  (List.range s.threads.length).filter fun t => (s.threads[t]?).any (canStep s.launch)

/-- The scheduling choice of this step. -/
def nextChoice (s : State) : Choice :=
  match s.schedule with
  | c :: _ => c
  | [] => Config.freeChoice s.draws

/-- The state with this step's choice used up. -/
def choiceTaken (s : State) : State :=
  match s.schedule with
  | _ :: cs => { s with schedule := cs }
  | [] => { s with draws := s.draws + 1 }

/-- The thread that the number `k` picks among those that can step. -/
def pickThread (ts : List Nat) (k : Nat) : Option Nat :=
  match ts with
  | [t] => some t
  | ts => ts[k % ts.length]?

/-- The state in which thread `t` executes. -/
def runAs (s : State) (t : Nat) : State := { choiceTaken s with cur := t }

/-- One step of the machine: one thread that can step does what the choice says. -/
def stepThreads (s : State) : Out :=
  match pickThread (runnable s) (nextChoice s).thread with
  | none => .fault .noRunnableThread
  | some t => act (nextChoice s).act (runAs s t)

/-- The program with a statement placed at number `k`; missing statements before it are empty texts. -/
def placeStatement (k : Nat) (t : Text) (program : List Text) : List Text :=
  (program ++ List.replicate (k + 1 - program.length) []).set k t

end Sys2Proof.Machine
end

