-- ==== Sys2Proof/Machine/Step.lean ====
section
/-!
DEFINITION. The step of the machine, and the placing of one statement of program text where the next step fetches it.
-/

namespace Sys2Proof.Machine

/-- One step (R172): see `stepThreads`. -/
def step (s : State) : Host.Outcome State Fault Refusal := stepThreads s

/-- The launch with the program text of `nbits` bits of `w`, placed at the pc of the executing thread, and the choice that this
thread runs it next (DESIGN CHOICE, log 10). -/
def State.withFetchWord (s : State) (nbits w : Nat) : State :=
  let pc := (s.thread.map Thread.pc).getD 0
  let program := placeStatement (pc / s.launch.ilen) (bytesOf ((nbits + 7) / 8) w) s.launch.program
  let s' := { s with launch := { s.launch with program := program } }
  { s' with schedule := ⟨(runnable s').idxOf s.cur, .run⟩ :: s.schedule }

end Sys2Proof.Machine
end

