-- ==== Sys2Proof/Safety.lean ====
section
/-!
DEFINITION. What counts as a good state and a good run, in the terms the claims use: canonical form, legal launches, threads that
end, fault-free machines (R166), the premises of R181, and the fairness of R48.
-/

namespace Sys2Proof.Machine

/-- The registers of a thread are in canonical form. -/
def Thread.wf (th : Thread) : Prop := storeWf th.regs

/-- Memory and every register file are in canonical form, so that equal contents are equal data. -/
def State.wf (s : State) : Prop := s.mem.wf ∧ ∀ th ∈ s.threads, th.wf

/-- The launch parameters are meaningful: instructions have a length and pages a size. -/
def Launch.wf (L : Launch) : Prop := 0 < L.ilen ∧ 0 < L.pageSize

/-- No thread has a fault recorded: the premise of every claim of success (R166). -/
def State.faultFree (s : State) : Prop := ∀ th ∈ s.threads, th.fault = none

/-- The thread's run is over: its pc is at the end of the program text (R189). -/
def Thread.ended (L : Launch) (th : Thread) : Prop := th.pc = endPc L

/-- The run of the whole machine is over and successful (R189, R166). -/
def State.finished (s : State) : Prop := s.faultFree ∧ ∀ th ∈ s.threads, th.ended s.launch

/-- An access of `n` bytes at `ea` passes the three checks of R88 and is not to a sparse page (R181). -/
def accessAllowed (L : Launch) (ea : DWord) (n : Nat) : Prop := applicableErrors L ea n = [] ∧ sparseAt L ea = false

/-- The state lets the executing thread `th` perform the event of `i`: the instruction is well formed (R75), its guard is true (R81), the
thread participates (R82), and the access is allowed (R88, R181). -/
def Ready (i : Instr) (s : State) (th : Thread) : Prop :=
  s.thread = some th ∧ i.wf s.launch.numGpr s.launch.spa = true ∧ active s.launch th i.record = true ∧
    accessAllowed s.launch (effectiveAddress i.record th.regs) i.record.sz.bytes

/-- The instructions of the program text from a pc on. -/
def instructionsFrom (L : Launch) (pc : Nat) : List AtomInstr :=
  (L.program.drop (pc / L.ilen)).filterMap fun t => (decode t).toOption.map Instr.record

/-- No scoreboard is pending (R181) and what each thread is to execute keeps the hazard rules, whatever they are (R184): the premise
under which the execution of R80 is what a program sees (log 18, log 28). -/
def State.keepsHazardRules (s : State) : Prop :=
  ∀ th ∈ s.threads, th.scoreboards = [] ∧
    Config.scoreboardModel Config.numScoreboards th.scoreboards (instructionsFrom s.launch th.pc) = true

/-- The thread that the step from `s` runs, if any. -/
def steppingThread (s : State) : Option Nat := pickThread (runnable s) (nextChoice s).thread

/-- Weak fairness of an infinite run (R48): a thread that from some point on can always step does step again. -/
def WeaklyFair (run : Nat → State) : Prop :=
  ∀ t n, (∀ m, n ≤ m → t ∈ runnable (run m)) → ∃ m, n ≤ m ∧ steppingThread (run m) = some t

end Sys2Proof.Machine
end

