-- ==== Sys2Proof/Certificates/Slice0/Obligations.lean ====
section
/-!
DEFINITION. The statements about the model. The first part names what several of them share; then each obligation stands as one
definition. A statement cites the rules of spec/ it formalises; where it rests on a choice of the model, it says so and
names the log entry.
-/

namespace Sys2Proof.Claims

open Sys2Proof.Machine

/-! ### What the statements share -/

/-- The address lies in one of the regions. -/
def InSet (rs : List Region) (a : Nat) : Prop := ∃ r ∈ rs, r.base ≤ a ∧ a < r.base + r.size

/-- The cause of an error, as R33 to R35 and R161 to R163 give it, for an access of `n` bytes at `ea`. -/
def Applies (e : ErrorKind) (L : Launch) (ea : DWord) (n : Nat) : Prop :=
  match e with
  | .invalidAddressSpace => ∃ k, k < n ∧ (InSet L.localWindow (ea.toNat + k) ∨ InSet L.sharedWindow (ea.toNat + k))
  | .misalignedAddress => ea.toNat % n ≠ 0
  | .addressOutOfRange => ∃ k, k < n ∧ ¬InSet L.allocated (ea.toNat + k)

/-- All of the state but global memory, the executing thread and the counter of free values is unchanged. -/
def OthersSame (s t : State) : Prop :=
  t.launch = s.launch ∧ t.cur = s.cur ∧ t.schedule = s.schedule ∧ t.threads.length = s.threads.length ∧
    ∀ k, k ≠ s.cur → t.threads[k]? = s.threads[k]?

/-- The instruction completes on 4 bytes with the operation function `f`: in every state that is ready for it, it answers a next
state in which the word at the effective address is `f` of its old value, Rb and Rc, and Rd holds the old value. -/
def Stores32 (i : Instr) (f : Word → Word → Word → Word) : Prop :=
  i.record.sz.bytes = 4 ∧ ∀ (s : State) (th : Thread), Ready i s th → ∃ t th', exec i s = .next t ∧ t.thread = some th' ∧
    (let ea := (effectiveAddress i.record th.regs).toNat
     read32 t.mem ea = f (read32 s.mem ea) (readReg th.regs i.record.rb) (readReg th.regs i.record.rc) ∧
     ∀ n, i.record.rd = .r n → readReg th'.regs (.r n) = read32 s.mem ea)

/-- The same on 8 bytes: Rb, Rc and Rd are pairs. -/
def Stores64 (i : Instr) (f : DWord → DWord → DWord → DWord) : Prop :=
  i.record.sz.bytes = 8 ∧ ∀ (s : State) (th : Thread), Ready i s th → ∃ t th', exec i s = .next t ∧ t.thread = some th' ∧
    (let ea := (effectiveAddress i.record th.regs).toNat
     read64 t.mem ea = f (read64 s.mem ea) (readPair th.regs i.record.rb) (readPair th.regs i.record.rc) ∧
     ∀ n, i.record.rd = .r n → readPair th'.regs (.r n) = read64 s.mem ea)

/-- The constructors of one (operation, size) pair in form RI, and what their operands are. -/
abbrev RiForm := Common → Reg → Reg → BitVec 20 → Reg → Instr
/-- Those of form ABS. -/
abbrev AbsForm := Common → Reg → BitVec 20 → Reg → Instr
/-- Those of form SP. -/
abbrev SpForm := Common → PredReg → Reg → Reg → Reg → Instr

/-- The three forms of a 4-byte operation complete with the operation function `f`. -/
def Forms32 (ri : RiForm) (ab : AbsForm) (sp : SpForm) (f : Word → Word → Word) : Prop :=
  (∀ c rd ra imm rb, Stores32 (ri c rd ra imm rb) fun m b _ => f m b) ∧
    (∀ c rd imm rb, Stores32 (ab c rd imm rb) fun m b _ => f m b) ∧
    ∀ c ps rd ra rb, Stores32 (sp c ps rd ra rb) fun m b _ => f m b

/-- The three forms of an 8-byte operation complete with the operation function `f`. -/
def Forms64 (ri : RiForm) (ab : AbsForm) (sp : SpForm) (f : DWord → DWord → DWord) : Prop :=
  (∀ c rd ra imm rb, Stores64 (ri c rd ra imm rb) fun m b _ => f m b) ∧
    (∀ c rd imm rb, Stores64 (ab c rd imm rb) fun m b _ => f m b) ∧
    ∀ c ps rd ra rb, Stores64 (sp c ps rd ra rb) fun m b _ => f m b

/-- A function of halves on the two halves of a word, each for itself: high half first (R46). -/
def EachHalf (g : Half → Half → Half) (m b : Word) : Word :=
  g (m.extractLsb' 16 16) (b.extractLsb' 16 16) ++ g (m.extractLsb' 0 16) (b.extractLsb' 0 16)

/-- The executing thread with its pc advanced, and nothing else changed. -/
def OnlyPcAdvances (s t : State) (th : Thread) : Prop :=
  t = { s with threads := s.threads.set s.cur { th with pc := th.pc + s.launch.ilen } }

/-- The pattern is a finite number of the format. -/
def FinitePattern (F : FloatFormat) (x : Nat) : Prop := x < 2 * F.signBit ∧ F.magnitude x < F.infinity

/-- The distance of two values. -/
def apart (a b : Int) : Nat := (a - b).natAbs

/-- Two accesses share no byte. -/
def Apart (a : DWord) (n : Nat) (b : DWord) (m : Nat) : Prop := b.toNat + m ≤ a.toNat ∨ a.toNat + n ≤ b.toNat

/-- The instruction `I` reads a register that `J` writes, or its guard the predicate: Rd of `J`, for 8 bytes a pair, or Ps. -/
def Reads (I J : AtomInstr) : Prop :=
  (∃ k ra, I.common.guard.pg = .p k ∧ J.addr = .sp (.p k) ra) ∨
    ∃ m r, J.rd = .r m ∧ (r = m ∨ (J.sz.bytes = 8 ∧ r = m + 1)) ∧
      (I.rb = .r r ∨ I.rc = .r r ∨ I.addr.base = some (.r r) ∨
        (I.sz.bytes = 8 ∧ ∃ n, r = n + 1 ∧ (I.rb = .r n ∨ I.rc = .r n)) ∨
        (I.common.e = true ∧ ∃ n, r = n + 1 ∧ I.addr.base = some (.r n)))

end Sys2Proof.Claims

open Sys2Proof Sys2Proof.Machine Sys2Proof.Claims

/-! ### The operations: what each instruction stores, returns and leaves -/

/-- ADD on integers stores the sum modulo 2^N, in `.U32`, `.S32` and `.U64` alike (R101, R102, R103, R132). That the sum wraps is the
spec's own decision from general knowledge (D7, log 3). -/
def Obligations.AddIntegerStoresWrappedSum : Prop :=
  Forms32 .addU32Ri .addU32Abs .addU32Sp (fun m b => BitVec.ofNat 32 ((m.toNat + b.toNat) % 2 ^ 32)) ∧
    Forms32 .addS32Ri .addS32Abs .addS32Sp (fun m b => BitVec.ofNat 32 ((m.toNat + b.toNat) % 2 ^ 32)) ∧
    Forms64 .addU64Ri .addU64Abs .addU64Sp (fun m b => BitVec.ofNat 64 ((m.toNat + b.toNat) % 2 ^ 64))

/-- ADD.F32.FTZ.RN stores NUM.fadd32_ftz_rn of the two words; Rd receives the prior bits unflushed (R104). -/
def Obligations.AddF32StoresNumSum : Prop := Forms32 .addF32Ri .addF32Abs .addF32Sp fadd32

/-- ADD.F16x2.RN adds the two halves each for itself with NUM.fadd16_rn (R105, R46). -/
def Obligations.AddF16x2AddsEachHalf : Prop := Forms32 .addF16x2Ri .addF16x2Abs .addF16x2Sp (EachHalf fadd16)

/-- ADD.F64.RN stores NUM.fadd64_rn of the two doublewords (R106). -/
def Obligations.AddF64StoresNumSum : Prop := Forms64 .addF64Ri .addF64Abs .addF64Sp fadd64

/-- MIN on integers stores the smaller number: unsigned for `.U32` and `.U64`, two's complement for `.S32` and `.S64` (R107 to R110).
That a signed number is two's complement is the spec's own decision from general knowledge (D7, R5, R132, log 3). -/
def Obligations.MinIntegerStoresSmaller : Prop :=
  Forms32 .minU32Ri .minU32Abs .minU32Sp (fun m b => if m.toNat ≤ b.toNat then m else b) ∧
    Forms32 .minS32Ri .minS32Abs .minS32Sp (fun m b => if m.toInt ≤ b.toInt then m else b) ∧
    Forms64 .minU64Ri .minU64Abs .minU64Sp (fun m b => if m.toNat ≤ b.toNat then m else b) ∧
    Forms64 .minS64Ri .minS64Abs .minS64Sp (fun m b => if m.toInt ≤ b.toInt then m else b)

/-- MAX on integers stores the larger number (R112 to R115), unsigned or two's complement as MIN does: the spec's own decision from
general knowledge (D7, R5, R132, log 3). -/
def Obligations.MaxIntegerStoresLarger : Prop :=
  Forms32 .maxU32Ri .maxU32Abs .maxU32Sp (fun m b => if m.toNat ≥ b.toNat then m else b) ∧
    Forms32 .maxS32Ri .maxS32Abs .maxS32Sp (fun m b => if m.toInt ≥ b.toInt then m else b) ∧
    Forms64 .maxU64Ri .maxU64Abs .maxU64Sp (fun m b => if m.toNat ≥ b.toNat then m else b) ∧
    Forms64 .maxS64Ri .maxS64Abs .maxS64Sp (fun m b => if m.toInt ≥ b.toInt then m else b)

/-- MIN and MAX on `.F16x2.RN` take NUM.fmin16 and NUM.fmax16 of each half for itself (R111, R116). -/
def Obligations.MinMaxF16x2TakeEachHalf : Prop :=
  Forms32 .minF16x2Ri .minF16x2Abs .minF16x2Sp (EachHalf fmin16) ∧
    Forms32 .maxF16x2Ri .maxF16x2Abs .maxF16x2Sp (EachHalf fmax16)

/-- INC counts up to Rb and then returns to 0; `.U32` is its only size (R117). -/
def Obligations.IncCountsUpToBound : Prop :=
  Forms32 .incU32Ri .incU32Abs .incU32Sp
      (fun m b => if m.toNat ≥ b.toNat then 0#32 else BitVec.ofNat 32 (m.toNat + 1)) ∧
    ∀ i : Instr, i.record.op = .inc → i.record.sz = .u32

/-- DEC counts down to 0 and then returns to Rb; `.U32` is its only size (R118). -/
def Obligations.DecCountsDownFromBound : Prop :=
  Forms32 .decU32Ri .decU32Abs .decU32Sp
      (fun m b => if m = 0#32 ∨ m.toNat > b.toNat then b else BitVec.ofNat 32 (m.toNat - 1)) ∧
    ∀ i : Instr, i.record.op = .dec → i.record.sz = .u32

/-- AND, OR and XOR work bit by bit, in `.U32`, `.S32` and `.U64` (R119 to R127). -/
def Obligations.LogicWorksBitByBit : Prop :=
  (∀ f : Word → Word → Word, (∀ m b i, (f m b).getLsbD i = (m.getLsbD i && b.getLsbD i)) →
      Forms32 .andU32Ri .andU32Abs .andU32Sp f ∧ Forms32 .andS32Ri .andS32Abs .andS32Sp f) ∧
    (∀ f : DWord → DWord → DWord, (∀ m b i, (f m b).getLsbD i = (m.getLsbD i && b.getLsbD i)) →
      Forms64 .andU64Ri .andU64Abs .andU64Sp f) ∧
    (∀ f : Word → Word → Word, (∀ m b i, (f m b).getLsbD i = (m.getLsbD i || b.getLsbD i)) →
      Forms32 .orU32Ri .orU32Abs .orU32Sp f ∧ Forms32 .orS32Ri .orS32Abs .orS32Sp f) ∧
    (∀ f : DWord → DWord → DWord, (∀ m b i, (f m b).getLsbD i = (m.getLsbD i || b.getLsbD i)) →
      Forms64 .orU64Ri .orU64Abs .orU64Sp f) ∧
    (∀ f : Word → Word → Word, (∀ m b i, (f m b).getLsbD i = (m.getLsbD i ^^ b.getLsbD i)) →
      Forms32 .xorU32Ri .xorU32Abs .xorU32Sp f ∧ Forms32 .xorS32Ri .xorS32Abs .xorS32Sp f) ∧
    ∀ f : DWord → DWord → DWord, (∀ m b i, (f m b).getLsbD i = (m.getLsbD i ^^ b.getLsbD i)) →
      Forms64 .xorU64Ri .xorU64Abs .xorU64Sp f

/-- EXCH stores Rb, whatever memory held (R128 to R130): the value that Rb held before the instruction, where Rd is the same register
too, which is the spec's own decision from general knowledge (D6, R83, log 3). -/
def Obligations.ExchStoresRb : Prop :=
  Forms32 .exchU32Ri .exchU32Abs .exchU32Sp (fun _ b => b) ∧
    Forms32 .exchS32Ri .exchS32Abs .exchS32Sp (fun _ b => b) ∧
    Forms64 .exchU64Ri .exchU64Abs .exchU64Sp (fun _ b => b)

/-- CAS stores Rc where memory equals Rb and leaves memory where it does not; Rd receives the prior value in both cases
(R140 to R143). -/
def Obligations.CasStoresRcWhenEqual : Prop :=
  (∀ c rd ra imm rb rc, Stores32 (.casU32Ri c rd ra imm rb rc) fun m b r => if m = b then r else m) ∧
    (∀ c rd imm rb rc, Stores32 (.casU32Abs c rd imm rb rc) fun m b r => if m = b then r else m) ∧
    (∀ c ps rd ra rb rc, Stores32 (.casU32Sp c ps rd ra rb rc) fun m b r => if m = b then r else m) ∧
    (∀ c rd ra imm rb rc, Stores32 (.casS32Ri c rd ra imm rb rc) fun m b r => if m = b then r else m) ∧
    (∀ c rd imm rb rc, Stores32 (.casS32Abs c rd imm rb rc) fun m b r => if m = b then r else m) ∧
    (∀ c ps rd ra rb rc, Stores32 (.casS32Sp c ps rd ra rb rc) fun m b r => if m = b then r else m) ∧
    (∀ c rd ra imm rb rc, Stores64 (.casU64Ri c rd ra imm rb rc) fun m b r => if m = b then r else m) ∧
    (∀ c rd imm rb rc, Stores64 (.casU64Abs c rd imm rb rc) fun m b r => if m = b then r else m) ∧
    ∀ c ps rd ra rb rc, Stores64 (.casU64Sp c ps rd ra rb rc) fun m b r => if m = b then r else m

/-- What every ATOM that performs its event leaves, whatever its operation, size and form: no register but Rd (for 8 bytes the
pair of Rd) is changed (R13); no byte of memory but those of the access is changed (R89, R31); Ps, where the form has one,
holds 0, the status of a page that is not sparse (R151), and no other predicate is changed (R14, R100); the pc is advanced by
ILEN (R91); nothing else of the thread, of another thread or of the launch is changed. That the pc advances so, and
what Ps holds, are decisions of the spec (D16, D19; log 3). -/
def Obligations.AtomChangesOnlyItsDestinations : Prop :=
  ∀ (i : Instr) (s : State) (th : Thread), i.record.op ≠ .safeAdd → Ready i s th →
    ∃ t th', exec i s = .next t ∧ t.thread = some th' ∧
      (∀ k, (∀ n, i.record.rd = .r n → k ≠ n ∧ (i.record.sz.bytes = 8 → k ≠ n + 1)) →
        readReg th'.regs (.r k) = readReg th.regs (.r k)) ∧
      (let ea := (effectiveAddress i.record th.regs).toNat
       ∀ a, a < ea ∨ ea + i.record.sz.bytes ≤ a → readByte t.mem a = readByte s.mem a) ∧
      (∀ k ra, i.record.addr = .sp (.p k) ra → readPred th'.preds (.p k) = false) ∧
      (∀ k, (∀ ra, i.record.addr ≠ .sp (.p k) ra) → readPred th'.preds (.p k) = readPred th.preds (.p k)) ∧
      th'.pc = th.pc + s.launch.ilen ∧ th'.helper = th.helper ∧ th'.killed = th.killed ∧ th'.fault = th.fault ∧
      th'.scoreboards = th.scoreboards ∧ th'.early = th.early ∧ t.draws = s.draws ∧ OthersSame s t

/-- SAFEADD, in its three forms, goes through steps 1 to 6 of R80 as every ATOM does and is refused where its event would stand
(R131): a thread that does not execute it only advances its pc, an error that applies is recorded, and a state that is
ready for it gets the refusal. -/
def Obligations.SafeAddIsRefusedAtItsEvent : Prop :=
  ∀ i : Instr, i.record.op = .safeAdd → ∀ (s : State) (th : Thread), s.thread = some th → i.wf s.launch.numGpr s.launch.spa = true →
    (active s.launch th i.record = false → ∃ t, exec i s = .next t ∧ OnlyPcAdvances s t th) ∧
    (active s.launch th i.record = true →
      (∃ e, Applies e s.launch (effectiveAddress i.record th.regs) i.record.sz.bytes) →
      ∃ e t, Applies e s.launch (effectiveAddress i.record th.regs) i.record.sz.bytes ∧ exec i s = .next t ∧
        t.thread = some { th with fault := some (e, effectiveAddress i.record th.regs) } ∧ t.mem = s.mem ∧ OthersSame s t) ∧
    (Ready i s th → exec i s = .refused .safeAddFormula)

/-! ### What every ATOM shares -/

/-- A false guard does nothing but advance the pc: no operand, no address, no error, no event (R81, R177). The guard is
the predicate, PT being 1, negated where `!` is written. -/
def Obligations.FalseGuardOnlyAdvancesPc : Prop :=
  ∀ (i : Instr) (s : State) (th : Thread), s.thread = some th → i.wf s.launch.numGpr s.launch.spa = true →
    ((i.record.common.guard.pg = .pt ∧ i.record.common.guard.neg = true) ∨
      ∃ k, i.record.common.guard.pg = .p k ∧ th.preds[k.val] = i.record.common.guard.neg) →
    ∃ t, exec i s = .next t ∧ OnlyPcAdvances s t th

/-- A thread does not participate exactly when the program is a pixel shader and it is a helper pixel or a killed pixel; then
every ATOM only advances its pc, whatever its guard: no access, no error, no register or predicate written (R82). That the
pc advances by ILEN is the spec's own decision (D16, R15, R91, log 3). -/
def Obligations.HelperOrKilledPixelOnlyAdvancesPc : Prop :=
  (∀ (L : Launch) (th : Thread),
      participates L th = false ↔ L.isPixelShader = true ∧ (th.helper = true ∨ th.killed = true)) ∧
    ∀ (i : Instr) (s : State) (th : Thread), s.thread = some th → i.wf s.launch.numGpr s.launch.spa = true →
      s.launch.isPixelShader = true → (th.helper = true ∨ th.killed = true) →
      ∃ t, exec i s = .next t ∧ OnlyPcAdvances s t th

/-- A thread executes the instruction exactly when its guard is true and it is no helper or killed pixel of a pixel shader
(R81, R82). -/
def Obligations.ExecutesWhenGuardTrueAndParticipating : Prop :=
  ∀ (L : Launch) (th : Thread) (I : AtomInstr), active L th I = true ↔
    ((I.common.guard.pg = .pt ∧ I.common.guard.neg = false) ∨
      ∃ k, I.common.guard.pg = .p k ∧ th.preds[k.val] ≠ I.common.guard.neg) ∧
    ¬(L.isPixelShader = true ∧ (th.helper = true ∨ th.killed = true))

/-- An access that has the cause of an error raises an error whose cause it has: the fault record of the thread becomes that error
with the effective address, and nothing else changes; memory, registers, predicates and the pc among it (R88, R166). -/
def Obligations.AddressErrorIsRecordedAloneWithItsAddress : Prop :=
  ∀ (i : Instr) (s : State) (th : Thread), s.thread = some th → i.wf s.launch.numGpr s.launch.spa = true → active s.launch th i.record = true →
    (∃ e, Applies e s.launch (effectiveAddress i.record th.regs) i.record.sz.bytes) →
    ∃ e t, Applies e s.launch (effectiveAddress i.record th.regs) i.record.sz.bytes ∧ exec i s = .next t ∧
      t.thread = some { th with fault := some (e, effectiveAddress i.record th.regs) } ∧ t.mem = s.mem ∧ OthersSame s t

/-- The checks of an access pass exactly when no error's cause is there: aligned, every byte allocated, none in a window
(R33, R34, R35). -/
def Obligations.ChecksPassWhenNoErrorApplies : Prop :=
  ∀ (L : Launch) (ea : DWord) (n : Nat), (applicableErrors L ea n = [] ↔ ∀ e, ¬Applies e L ea n) ∧
    ∀ e, e ∈ applicableErrors L ea n ↔ Applies e L ea n

/-- An access that passes the checks and whose page is marked sparse is refused, in every form (R153, R155). -/
def Obligations.SparsePageIsRefused : Prop :=
  ∀ (i : Instr) (s : State) (th : Thread), s.thread = some th → i.wf s.launch.numGpr s.launch.spa = true → active s.launch th i.record = true →
    (∀ e, ¬Applies e s.launch (effectiveAddress i.record th.regs) i.record.sz.bytes) →
    (effectiveAddress i.record th.regs).toNat / s.launch.pageSize ∈ s.launch.sparsePages →
    exec i s = .refused .sparsePage

/-- An instruction that is not well formed is refused in every state, with the check that it fails (R75). -/
def Obligations.IllFormedInstructionIsRefused : Prop :=
  ∀ (i : Instr) (s : State), i.wf s.launch.numGpr s.launch.spa = false →
    ∃ why, (false, why) ∈ i.record.checks s.launch.numGpr s.launch.spa ∧ exec i s = .refused (.illFormed why)

/-- A well-formed CAS has Rb even (32 bits) or a multiple of four (64 bits), not RZ, and Rc the next one after the compare value;
Rc = RZ is refused (R144, R145, R146). -/
def Obligations.CasRegistersAreAlignedAndConsecutive : Prop :=
  ∀ (i : Instr) (numGpr : Nat) (spa : SpaVersion), i.record.op = .cas → i.wf numGpr spa = true →
    ∃ n, i.record.rb = .r n ∧
      ((i.record.sz.bytes = 4 ∧ n % 2 = 0 ∧ i.record.rc = .r (n + 1)) ∨
       (i.record.sz.bytes = 8 ∧ n % 4 = 0 ∧ i.record.rc = .r (n + 2)))

/-- In a well-formed instruction every register named exists; with an 8-byte size Rd and Rb are RZ or pairs of an even register
and the next, both existing; with `.E` so is Ra (R70). -/
def Obligations.PairsBeginEvenAndExist : Prop :=
  ∀ (i : Instr) (numGpr : Nat) (spa : SpaVersion), i.wf numGpr spa = true →
    (∀ n, (i.record.rd = .r n ∨ i.record.rb = .r n ∨ i.record.rc = .r n) →
      n < numGpr ∧ (i.record.sz.bytes = 8 → n % 2 = 0 ∧ n + 1 < numGpr)) ∧
    ∀ n, (i.record.addr.base = some (.r n)) → n < numGpr ∧ (i.record.common.e = true → n % 2 = 0 ∧ n + 1 < numGpr)

/-- The eight starred pairs are refused below SPA 3.5 and are available from 3.5 on; the other pairs do not depend on the
version (R63). -/
def Obligations.StarredPairsNeedSpa35 : Prop :=
  ∀ (i : Instr) (numGpr : Nat) (spa spa' : SpaVersion),
    ((i.record.op, i.record.sz) ∈
        [(Op.min, Sz.u64), (.min, .s64), (.max, .u64), (.max, .s64), (.and, .u64), (.or, .u64), (.xor, .u64), (.safeAdd, .u64)] →
      (spa.major < 3 ∨ spa.major = 3 ∧ spa.minor < 5) → i.wf numGpr spa = false) ∧
    (¬(spa.major < 3 ∨ spa.major = 3 ∧ spa.minor < 5) → i.wf numGpr spa' = true → i.wf numGpr spa = true) ∧
    ((i.record.op, i.record.sz) ∉
        [(Op.min, Sz.u64), (.min, .s64), (.max, .u64), (.max, .s64), (.and, .u64), (.or, .u64), (.xor, .u64), (.safeAdd, .u64)] →
      i.wf numGpr spa = i.wf numGpr spa')

/-- The opex annotations have no effect on execution (R183). -/
def Obligations.OpexHasNoEffect : Prop :=
  ∀ (i j : Instr) (o : Opex) (s : State), AtomInstr.toInstr? { i.record with common := { i.record.common with opex := o } } = some j → exec j s = exec i s

/-! ### Addresses, registers, predicates, memory -/

/-- The effective address of form RI: the 32-bit sum of Ra and the sign-extended offset, zero-extended, so below 2^32 (R84); with
`.E` the 64-bit sum of the pair and the sign-extended offset (R85). -/
def Obligations.RegisterFormAddressIsTheWrappedSum : Prop :=
  ∀ (I : AtomInstr) (regs : Store 32) (ra : Reg) (imm : BitVec 20), I.addr = .ri ra imm →
    (I.common.e = false →
      (effectiveAddress I regs).toNat = (((readReg regs ra).toNat : Int) + imm.toInt).emod (2 ^ 32)) ∧
    (I.common.e = true →
      (effectiveAddress I regs).toNat = (((readPair regs ra).toNat : Int) + imm.toInt).emod (2 ^ 64))

/-- The effective address of form ABS is the unsigned immediate, with or without `.E` (R86; the `.E` case is the spec's decision
D27, log 3); that of form SP is the register, with `.E` the pair (R87, R152, derived by the spec from R84 and R85). -/
def Obligations.AbsoluteAndSparseAddressesAreUnshifted : Prop :=
  ∀ (I : AtomInstr) (regs : Store 32),
    (∀ imm, I.addr = .abs imm → (effectiveAddress I regs).toNat = imm.toNat) ∧
    (∀ ps ra, I.addr = .sp ps ra → I.common.e = false → (effectiveAddress I regs).toNat = (readReg regs ra).toNat) ∧
    ∀ ps ra, I.addr = .sp ps ra → I.common.e = true → effectiveAddress I regs = readPair regs ra

/-- RZ reads 0, alone and as a pair, and a write to it changes nothing (R11); another register holds what was written to it, and
keeps its value when another is written. -/
def Obligations.RzReadsZeroAndDiscardsWrites : Prop :=
  ∀ (regs : Store 32) (v : Word) (w : DWord) n k,
    readReg regs .rz = 0#32 ∧ readPair regs .rz = 0#64 ∧ writeReg regs .rz v = regs ∧ writePair regs .rz w = regs ∧
      readReg (writeReg regs (.r n) v) (.r n) = v ∧
      (k ≠ n → readReg (writeReg regs (.r n) v) (.r k) = readReg regs (.r k))

/-- A pair holds bits 31 to 0 in the lower-numbered register and bits 63 to 32 in the next (R12). -/
def Obligations.PairHalvesAreLowThenHigh : Prop :=
  ∀ (regs : Store 32) (v : DWord) n,
    (readPair regs (.r n)).toNat = (readReg regs (.r (n + 1))).toNat * 2 ^ 32 + (readReg regs (.r n)).toNat ∧
      (readReg (writePair regs (.r n) v) (.r n)).toNat = v.toNat % 2 ^ 32 ∧
      (readReg (writePair regs (.r n) v) (.r (n + 1))).toNat = v.toNat / 2 ^ 32 ∧
      readPair (writePair regs (.r n) v) (.r n) = v

/-- PT reads 1 and a write to it is discarded; P0 to P6 hold what was written to them, each for itself (R14). -/
def Obligations.PtReadsTrueAndDiscardsWrites : Prop :=
  ∀ (preds : Vector Bool 7) (b : Bool) (k j : Fin 7),
    readPred preds .pt = true ∧ writePred preds .pt b = preds ∧ readPred (writePred preds (.p k) b) (.p k) = b ∧
      (j ≠ k → readPred (writePred preds (.p k) b) (.p j) = readPred preds (.p j))

/-- The binary Ps field holds 7 - k for predicate number k, and reading it gives the predicate back (R67). -/
def Obligations.PsFieldIsBitInverted : Prop :=
  (∀ ps, (psField ps).toNat = 7 - ps.number ∧ psOfField (psField ps) = ps) ∧ ∀ f, psField (psOfField f) = f

/-- Memory is little-endian: byte k of a 4-byte or 8-byte operand is at the address plus k, for reads and for writes, and a write
touches no other byte (R30, R32). -/
def Obligations.MemoryIsLittleEndian : Prop :=
  ∀ (m : Memory) (a b : Nat) (v : Word) (w : DWord),
    (∀ k, k < 4 → readByte m (a + k) = (read32 m a).extractLsb' (8 * k) 8 ∧
      readByte (write32 m a v) (a + k) = v.extractLsb' (8 * k) 8) ∧
    (∀ k, k < 8 → readByte m (a + k) = (read64 m a).extractLsb' (8 * k) 8 ∧
      readByte (write64 m a w) (a + k) = w.extractLsb' (8 * k) 8) ∧
    ((b < a ∨ a + 4 ≤ b) → readByte (write32 m a v) b = readByte m b) ∧
    ((b < a ∨ a + 8 ≤ b) → readByte (write64 m a w) b = readByte m b)

/-- A memory value read where it was just written is the value written. -/
def Obligations.ReadAfterWriteGivesTheValue : Prop :=
  ∀ (m : Memory) (a : Nat) (v : Word) (w : DWord),
    read32 (write32 m a v) a = v ∧ read64 (write64 m a w) a = w ∧
      read32 (write64 m a w) a = w.extractLsb' 0 32 ∧ read32 (write64 m a w) (a + 4) = w.extractLsb' 32 32

/-- Two memories in canonical form that read alike everywhere are equal, and every write keeps the form. The form and the
value 0 of an unlisted byte are the model's (log 6). -/
def Obligations.CanonicalMemoryIsDeterminedByItsBytes : Prop :=
  ∀ m m' : Memory, m.wf → m'.wf → (∀ a, readByte m a = readByte m' a) →
    m = m' ∧ ∀ a v w, (write32 m a v).wf ∧ (write64 m a w).wf

/-! ### Floating point -/

/-- The sum of two finite patterns is the exact sum rounded to nearest, ties to even: no finite pattern is nearer, and where
another is as near the result is even; from half a unit above the largest finite value on, it is the infinity of the
sum's sign; a sum of zero is +0 unless both operands are -0 (R133 (c), (d)). -/
def Obligations.FloatSumIsRoundedToNearestEven : Prop :=
  ∀ F : FloatFormat, 2 ≤ F.expBits → 1 ≤ F.fracBits → ∀ x y, FinitePattern F x → FinitePattern F y →
    ∃ z, F.add x y = some z ∧ z < 2 * F.signBit ∧
      (F.value x + F.value y = 0 →
        z = if F.negative x = true ∧ F.negative y = true then F.signBit else 0) ∧
      (F.value x + F.value y ≠ 0 → F.negative z = decide (F.value x + F.value y < 0) ∧
        (F.units (F.infinity - 1) + F.units F.infinity ≤ 2 * (F.value x + F.value y).natAbs →
          F.magnitude z = F.infinity) ∧
        (2 * (F.value x + F.value y).natAbs < F.units (F.infinity - 1) + F.units F.infinity →
          FinitePattern F z ∧ ∀ v, FinitePattern F v →
            apart (F.value z) (F.value x + F.value y) ≤ apart (F.value v) (F.value x + F.value y) ∧
            (F.value v ≠ F.value z →
              apart (F.value z) (F.value x + F.value y) = apart (F.value v) (F.value x + F.value y) →
              F.magnitude z % 2 = 0)))

/-- The three additions of NUM are the sums of their formats; where the sum of the format is none, some NaN results; and an
infinity and a finite number or the same infinity give that infinity (R133). Which NaN is a free value (log 13). -/
def Obligations.NumAdditionsAreTheFormatSums : Prop :=
  (∀ a b : Half, match binary16.add a.toNat b.toNat with
    | some z => (fadd16 a b).toNat = z
    | none => binary16.isNaN (fadd16 a b).toNat = true) ∧
  (∀ a b : Word, match binary32.add (binary32.flush a.toNat) (binary32.flush b.toNat) with
    | some z => (fadd32 a b).toNat = binary32.flush z
    | none => binary32.isNaN (fadd32 a b).toNat = true) ∧
  (∀ a b : DWord, match binary64.add a.toNat b.toNat with
    | some z => (fadd64 a b).toNat = z
    | none => binary64.isNaN (fadd64 a b).toNat = true) ∧
  ∀ F ∈ [binary16, binary32, binary64], ∀ x y, x < 2 * F.signBit → y < 2 * F.signBit →
    (F.add x y = none ↔ F.isNaN x = true ∨ F.isNaN y = true ∨
      (F.isInf x = true ∧ F.isInf y = true ∧ F.negative x ≠ F.negative y)) ∧
    (F.isInf x = true → F.isNaN y = false → (F.isInf y = true → F.negative x = F.negative y) →
      F.add x y = some x ∧ F.add y x = some x)

/-- ADD.F32.FTZ.RN never produces a subnormal, and takes a subnormal operand as the zero of its sign (R133 (a), (e)). -/
def Obligations.F32AdditionFlushesSubnormals : Prop :=
  (∀ a b : Word, binary32.isSubnormal (fadd32 a b).toNat = false) ∧
    ∀ a b : Word, binary32.isSubnormal a.toNat = true → binary32.isNaN b.toNat = false →
      fadd32 a b = fadd32 (a &&& 0x80000000#32) b ∧ fadd32 b a = fadd32 b (a &&& 0x80000000#32)

/-- On halves that are no NaN, NUM.fmin16 returns the pattern of the numerically smaller operand and NUM.fmax16 that of the
larger, unchanged; of two equal patterns, that pattern (R134). An infinity's pattern counts as above every finite value. -/
def Obligations.HalfMinMaxOrderNumerically : Prop :=
  ∀ a b : Half, halfIsNaN a = false → halfIsNaN b = false →
    (binary16.value a.toNat < binary16.value b.toNat →
      fmin16 a b = a ∧ fmin16 b a = a ∧ fmax16 a b = b ∧ fmax16 b a = b) ∧
    fmin16 a a = a ∧ fmax16 a a = a

/-- Sums of the worked vectors: plain, ties to even both ways, overflow, flushed and kept subnormals (R104, R105, R106). -/
def Obligations.FloatAdditionVectors : Prop :=
  fadd32 0x3F800000#32 0x40000000#32 = 0x40400000#32 ∧ fadd32 0x4B800000#32 0x3F800000#32 = 0x4B800000#32 ∧
    fadd32 0x4B800001#32 0x3F800000#32 = 0x4B800002#32 ∧ fadd32 0x7F7FFFFF#32 0x7F7FFFFF#32 = 0x7F800000#32 ∧
    fadd32 0x00000001#32 0x00000000#32 = 0x00000000#32 ∧ fadd32 0x00800001#32 0x80800000#32 = 0x00000000#32 ∧
    EachHalf fadd16 0x40003C00#32 0x3C003C00#32 = 0x42004000#32 ∧ EachHalf fadd16 0x7BFF0000#32 0x7BFF0000#32 = 0x7C000000#32 ∧
    EachHalf fadd16 0x00000001#32 0x00000001#32 = 0x00000002#32 ∧
    fadd64 0x3FF0000000000000#64 0x4000000000000000#64 = 0x4008000000000000#64 ∧
    fadd64 0x4340000000000000#64 0x3FF0000000000000#64 = 0x4340000000000000#64 ∧
    fadd64 0x0000000000000001#64 0x0000000000000001#64 = 0x0000000000000002#64

/-! ### Text and instructions -/

/-- Reading the statement that the encoder writes for an instruction gives that instruction, for every instruction and every
operand (R75, R78). The spelling of the opex items is the model's (log 2). -/
def Obligations.DecodeOfEncodeIsTheInstruction : Prop := ∀ i : Instr, decode (encode i) = .ok i

/-- The page's four examples, and one statement each of the sparse and the CAS forms, are read as the records of R75 that the
spec gives for them (R51 to R56, R60, R64). -/
def Obligations.ExampleStatementsAreReadRight : Prop :=
  decode (text "ATOM.ADD.F32.FTZ.RN R0, [R1 - 400], R9; #") =
      .ok (.addF32Ri ⟨Guard.always, false, Opex.none⟩ (.r 0) (.r 1) 0xFFE70#20 (.r 9)) ∧
    decode (text "ATOM.ADD.U64 R0, [R4 + 8], R2; # even-odd registers for 64-bit ops") =
      .ok (.addU64Ri ⟨Guard.always, false, Opex.none⟩ (.r 0) (.r 4) 0x00008#20 (.r 2)) ∧
    decode (text "ATOM.ADD.S32 R9, [0xfff00], R8; # absolute 20-bit address") =
      .ok (.addS32Abs ⟨Guard.always, false, Opex.none⟩ (.r 9) 0xFFF00#20 (.r 8)) ∧
    decode (text "ATOM.MIN.S64 R0, [R4 + 8], R2; # signed min stored") =
      .ok (.minS64Ri ⟨Guard.always, false, Opex.none⟩ (.r 0) (.r 4) 0x00008#20 (.r 2)) ∧
    decode (text "@!P0 ATOM.E.CAS.64 P2, R12, [R4], R16, R18;") =
      .ok (.casU64Sp ⟨⟨true, .p 0⟩, true, Opex.none⟩ (.p 2) (.r 12) (.r 4) (.r 16) (.r 18))

/-- Size aliases and refused sizes: `.32`, an omitted size and `.U32` are one instruction, so are `.64` and `.U64`, and so are the two
spellings of `.F16x2.RN`; `.128` and `.U128` are refused (R60, R61). -/
def Obligations.SizeSpellingsAreRead : Prop :=
  (∀ t ∈ ["ATOM.ADD R0, [R2], R1;", "ATOM.ADD.32 R0, [R2], R1;", "ATOM.ADD.U32 R0, [R2], R1;"],
      decode (text t) = .ok (.addU32Ri ⟨Guard.always, false, Opex.none⟩ (.r 0) (.r 2) 0#20 (.r 1))) ∧
    (∀ t ∈ ["ATOM.EXCH.64 R0, [R2], R4;", "ATOM.EXCH.U64 R0, [R2], R4;"],
      decode (text t) = .ok (.exchU64Ri ⟨Guard.always, false, Opex.none⟩ (.r 0) (.r 2) 0#20 (.r 4))) ∧
    (∀ t ∈ ["ATOM.ADD.F16x2.FTZ.RN R0, [R2], R1;", "ATOM.ADD.F16x2.RN R0, [R2], R1;"],
      decode (text t) = .ok (.addF16x2Ri ⟨Guard.always, false, Opex.none⟩ (.r 0) (.r 2) 0#20 (.r 1))) ∧
    decode (text "ATOM.ADD.128 R0, [R2], R4;") = .error .illegalSize128 ∧
    decode (text "ATOM.CAS.U128 R0, [R2], R4, R8;") = .error .illegalSize128 ∧
    decode (text "ATOM.SAFEADD R0, [R2], R4;") = .error .pairNotInTable ∧
    decode (text "ATOM.ADD P2, R0, [R4 + 4], R1;") = .error .sparseWithImmediate

/-! ### The machine -/

/-- A step runs the decoded instruction, where the thread that steps does not let a later event go ahead and the statement at its
pc is read as `i` (R80, R172). Of a thread with no event ahead of its turn the step is `exec i` in the state in which that thread
executes and the scheduling choice is used up. Where later events went ahead (R38, log 17), it is so too if the instruction
goes on, raising no error and sharing no byte with them; and where the event of `i` itself went ahead, the step writes what
that event returned to Rd and Ps and advances the pc by ILEN, with no event. Statement number k stands at pc k * ILEN (log 9). -/
def Obligations.StepRunsTheDecodedInstruction : Prop :=
  ∀ (s : State) (t : Nat) (th : Thread) (k : Nat) (w : Text) (i : Instr), steppingThread s = some t → s.threads[t]? = some th →
    ((nextChoice s).act = .run ∨ s.launch.ordering = .programOrder) → 0 < s.launch.ilen → th.pc = k * s.launch.ilen →
    s.launch.program[k]? = some w → decode w = .ok i →
    (th.early = [] → step s = exec i (runAs s t)) ∧
    ((∀ e ∈ th.early, e.pc ≠ th.pc) → ∀ s' th', exec i (runAs s t) = .next s' → s'.thread = some th' → th'.fault = none →
      (active s.launch th i.record = true →
        ∀ e ∈ th.early, Apart e.address e.bytes (effectiveAddress i.record th.regs) i.record.sz.bytes) → step s = .next s') ∧
    ∀ before e after, th.early = before ++ e :: after → (∀ d ∈ before, d.pc ≠ th.pc) → e.pc = th.pc →
      step s = .next ((runAs s t).setThread
        { th with
          regs := e.regs.foldl (fun m p => writeReg m (.r p.1) p.2) th.regs
          preds := e.preds.foldl (fun m p => writePred m (.p p.1) p.2) th.preds
          pc := th.pc + s.launch.ilen
          early := before ++ after })

/-- The thread that steps is one that has not faulted and has an instruction to execute; without such a thread the machine stops
(R166, R172, R189). -/
def Obligations.OnlyThreadsThatCanStepDo : Prop :=
  ∀ s : State, (∀ t, steppingThread s = some t →
      ∃ th, s.threads[t]? = some th ∧ th.fault = none ∧ (fetchText s.launch th.pc).isSome = true) ∧
    (steppingThread s = none ↔ ∀ th ∈ s.threads, th.fault ≠ none ∨ fetchText s.launch th.pc = none) ∧
    (steppingThread s = none → step s = .fault .noRunnableThread)

/-- A step touches the private state of one thread only, the one that steps, and makes no thread and ends none (R172). -/
def Obligations.StepTouchesOneThreadOnly : Prop :=
  ∀ s s' : State, step s = .next s' → s'.threads.length = s.threads.length ∧
    ∃ t, steppingThread s = some t ∧ ∀ u, u ≠ t → s'.threads[u]? = s.threads[u]?

/-- An error ends its thread, and is precise (R166, R167). A thread whose fault record is set executes nothing further: no step changes
anything of it. The step that sets a fault record changes nothing else of the thread and no byte of memory, and no later
event of that thread has taken effect by then; the earlier ones have, since it is the instruction at the pc that raises the
error. So a machine in which no faulted thread has an event ahead of its turn keeps having none (log 17). -/
def Obligations.FaultedThreadNeverChanges : Prop :=
  (∀ (s s' : State) (t : Nat) (th : Thread), step s = .next s' → s.threads[t]? = some th → th.fault ≠ none →
      s'.threads[t]? = some th) ∧
    (∀ (s s' : State) (t : Nat) (th th' : Thread), step s = .next s' → s.threads[t]? = some th → s'.threads[t]? = some th' →
      th.fault = none → th'.fault ≠ none → th.early = [] ∧ th' = { th with fault := th'.fault } ∧ s'.mem = s.mem) ∧
    ∀ s s' : State, step s = .next s' → (∀ th ∈ s.threads, th.fault ≠ none → th.early = []) →
      ∀ th ∈ s'.threads, th.fault ≠ none → th.early = []

/-- The launch parameters are constant: no step changes the program text, the allocated regions, the windows, the sparse marks or
any other of them (R42, R180). -/
def Obligations.StepKeepsLaunchParameters : Prop := ∀ s s' : State, step s = .next s' → s'.launch = s.launch

/-- A thread's pixel attributes and scoreboards are never changed by a step (R19, R183). -/
def Obligations.StepKeepsThreadAttributes : Prop :=
  ∀ (s s' : State) (t : Nat) (th th' : Thread), step s = .next s' → s.threads[t]? = some th → s'.threads[t]? = some th' →
    th'.helper = th.helper ∧ th'.killed = th.killed ∧ th'.scoreboards = th.scoreboards

/-- No step ever changes a byte that is not allocated or that lies in the Local or the Shared window: an ATOM writes
allocated global memory alone, under either order of events (R16, R17, R34, R35). -/
def Obligations.OnlyAllocatedGlobalBytesEverChange : Prop :=
  ∀ (s s' : State) (a : Nat), step s = .next s' → readByte s'.mem a ≠ readByte s.mem a →
    InSet s.launch.allocated a ∧ ¬InSet s.launch.localWindow a ∧ ¬InSet s.launch.sharedWindow a

/-- Every step keeps memory and every register file in canonical form. The form is the model's (log 4, log 6). -/
def Obligations.StepKeepsCanonicalForm : Prop := ∀ s s' : State, s.wf → step s = .next s' → s'.wf

/-- The state after reset is in canonical form. -/
def Obligations.ResetIsCanonical : Prop := State.reset.wf

/-- After reset no fault is recorded, no scoreboard is pending, SPA_VERSION is 5.0 and ATOM_ORDERING is relaxed, as the spec says
(R23, R180, R4, R38). The other reset values are the model's (log 4 to 11). -/
def Obligations.ResetValuesOfTheSpec : Prop :=
  (∀ th ∈ State.reset.threads, th.fault = none ∧ th.scoreboards = [] ∧ readReg th.regs .rz = 0#32 ∧
    readPred th.preds .pt = true) ∧
  State.reset.launch.spa = ⟨5, 0⟩ ∧ State.reset.launch.ordering = .relaxed

/-! ### Several threads, and the order of events -/

/-- Two threads that add to one word with ADD.U32 of any form, one after the other: both sums count, and the second receives what
the first left (R36, R37 (b), R92). -/
def Obligations.TwoThreadsAddingToOneWordBothCount : Prop :=
  ∀ (s : State) (t₁ t₂ : Nat) (th₁ th₂ : Thread) (i₁ i₂ : Instr), t₁ ≠ t₂ →
    i₁.record.op = .add → i₁.record.sz = .u32 → i₂.record.op = .add → i₂.record.sz = .u32 →
    Ready i₁ { s with cur := t₁ } th₁ → Ready i₂ { s with cur := t₂ } th₂ →
    effectiveAddress i₁.record th₁.regs = effectiveAddress i₂.record th₂.regs →
    ∃ s₁ s₂ r₁ r₂, exec i₁ { s with cur := t₁ } = .next s₁ ∧ exec i₂ { s₁ with cur := t₂ } = .next s₂ ∧
      s₂.threads[t₁]? = some r₁ ∧ s₂.threads[t₂]? = some r₂ ∧
      (let ea := (effectiveAddress i₁.record th₁.regs).toNat
       read32 s₂.mem ea = read32 s.mem ea + readReg th₁.regs i₁.record.rb + readReg th₂.regs i₂.record.rb ∧
       (∀ n, i₁.record.rd = .r n → readReg r₁.regs (.r n) = read32 s.mem ea) ∧
       (∀ n, i₂.record.rd = .r n → readReg r₂.regs (.r n) = read32 s.mem ea + readReg th₁.regs i₁.record.rb))

/-- Two threads that try to take one lock by CAS.U32 of any form, one after the other: the first finds the compare value and stores
its own, the second finds that, and the word keeps it (R140, R141, R37 (b)). -/
def Obligations.SecondCompareAndSwapFindsTheFirst : Prop :=
  ∀ (s : State) (t₁ t₂ : Nat) (th₁ th₂ : Thread) (i₁ i₂ : Instr), t₁ ≠ t₂ →
    i₁.record.op = .cas → i₁.record.sz = .u32 → i₂.record.op = .cas → i₂.record.sz = .u32 →
    Ready i₁ { s with cur := t₁ } th₁ → Ready i₂ { s with cur := t₂ } th₂ →
    effectiveAddress i₁.record th₁.regs = effectiveAddress i₂.record th₂.regs →
    (let ea := (effectiveAddress i₁.record th₁.regs).toNat
     read32 s.mem ea = readReg th₁.regs i₁.record.rb → readReg th₁.regs i₁.record.rc ≠ readReg th₂.regs i₂.record.rb →
     ∃ s₁ s₂ r₁ r₂, exec i₁ { s with cur := t₁ } = .next s₁ ∧ exec i₂ { s₁ with cur := t₂ } = .next s₂ ∧
      s₂.threads[t₁]? = some r₁ ∧ s₂.threads[t₂]? = some r₂ ∧ read32 s₂.mem ea = readReg th₁.regs i₁.record.rc ∧
      (∀ n, i₁.record.rd = .r n → readReg r₁.regs (.r n) = readReg th₁.regs i₁.record.rb) ∧
      ∀ n, i₂.record.rd = .r n → readReg r₂.regs (.r n) = readReg th₁.regs i₁.record.rc)

/-- What is deferred and completed later ends as what is run at once (R38; the machinery of events that take effect ahead of their
turn is the model's, log 17). An instruction whose event takes effect first and whose Rd, Ps and pc follow in a second step is
the instruction run. And where the instruction at the pc is deferred, while the event of the one after it takes effect, on
other bytes and reading nothing that the first writes (R38 (4)), and then both are completed, the same state results as
when they run in order: every byte of memory, every register, predicate and pc, and all else. -/
def Obligations.DeferringThenCompletingIsRunning : Prop :=
  (∀ (i : Instr) (s : State) (th : Thread) (w : Text), s.launch.ordering = .relaxed → th.early = [] → Ready i s th →
      i.record.op ≠ .safeAdd → fetchText s.launch th.pc = some w → decode w = .ok i →
      ∃ s₁ th₁ s₂, act (.ahead 0) s = .next s₁ ∧ s₁.thread = some th₁ ∧ th₁.regs = th.regs ∧ th₁.preds = th.preds ∧
        th₁.pc = th.pc ∧ act .run s₁ = .next s₂ ∧ exec i s = .next s₂) ∧
    ∀ (i j : Instr) (s : State) (th : Thread) (w x : Text), s.launch.ordering = .relaxed → th.early = [] → th.fault = none →
      Ready i s th → Ready j (s.setThread { th with pc := th.pc + s.launch.ilen }) { th with pc := th.pc + s.launch.ilen } →
      i.record.op ≠ .safeAdd → j.record.op ≠ .safeAdd → fetchText s.launch th.pc = some w → decode w = .ok i →
      fetchText s.launch (th.pc + s.launch.ilen) = some x → decode x = .ok j → ¬Reads j.record i.record →
      Apart (effectiveAddress i.record th.regs) i.record.sz.bytes (effectiveAddress j.record th.regs) j.record.sz.bytes →
      ∃ s₁ s₂ s₃ t₁ t₂, act (.ahead 1) s = .next s₁ ∧ act .run s₁ = .next s₂ ∧ act .run s₂ = .next s₃ ∧
        act .run s = .next t₁ ∧ act .run t₁ = .next t₂ ∧ (∀ a, readByte s₃.mem a = readByte t₂.mem a) ∧
        s₃ = { t₂ with mem := s₃.mem } ∧
        ∀ a, readByte s₁.mem a =
          if (effectiveAddress j.record th.regs).toNat ≤ a ∧ a < (effectiveAddress j.record th.regs).toNat + j.record.sz.bytes
          then readByte t₂.mem a else readByte s.mem a

/-- Events of one thread on overlapping bytes take effect in program order (R38 (3)). That this holds where one location is
a half of the other too, which the rule does not place, is the model's choice (log 29), as is the view of what lies between (log
17). The event of the `k`-th instruction after the pc does not go ahead of the `j`-th, whose event is still to come, if that has a
known address that shares a byte with it; nor does it take effect where it shares a byte with a later one that went ahead. And
the instruction at the pc never goes on where it executes and shares a byte with a later event that went ahead, past its address
while that was not known: no run has such an order, and the step says so. -/
def Obligations.OverlappingEventsStayInProgramOrder : Prop :=
  (∀ (s : State) (th : Thread) (j k : Nat) (v' v : View) (i' i : Instr), s.thread = some th → j < k →
      viewAhead s.launch th j = some v' → viewAhead s.launch th k = some v → instrAt s.launch v'.thread.pc = some i' →
      instrAt s.launch v.thread.pc = some i → v'.thread.taken = none → active s.launch v'.thread i'.record = true →
      (∀ r ∈ baseRegs i'.record, r ∉ v'.regs) →
      ¬Apart (effectiveAddress i'.record v'.thread.regs) i'.record.sz.bytes
        (effectiveAddress i.record v.thread.regs) i.record.sz.bytes →
      act (.ahead k) s = goOn s th) ∧
    (∀ (s : State) (th : Thread) (k : Nat) (v : View) (i : Instr), s.thread = some th → viewAhead s.launch th k = some v →
      instrAt s.launch v.thread.pc = some i →
      (∃ e ∈ v.thread.early, ¬Apart e.address e.bytes (effectiveAddress i.record v.thread.regs) i.record.sz.bytes) →
      act (.ahead k) s = goOn s th) ∧
    ∀ (s : State) (th : Thread) (w : Text) (i : Instr), s.thread = some th → fetchText s.launch th.pc = some w →
      decode w = .ok i → (∀ e ∈ th.early, e.pc ≠ th.pc) → active s.launch th i.record = true →
      (∃ e ∈ th.early, ¬Apart e.address e.bytes (effectiveAddress i.record th.regs) i.record.sz.bytes) →
      (∀ t, goOn s th ≠ .next t) ∧ (Ready i s th → i.record.op ≠ .safeAdd → goOn s th = .fault .forbiddenOrder)

/-- An instruction that reads a register, or whose guard reads the predicate, that an older ATOM of its thread writes does not take
effect before that one, whether or not a third has written the register since (R38 (4); log 17): the thread goes on at its
pc instead. -/
def Obligations.ReaderOfAnOutstandingResultWaits : Prop :=
  ∀ (s : State) (th : Thread) (j k : Nat) (v' v : View) (i' i : Instr), s.thread = some th → j < k →
    viewAhead s.launch th j = some v' → viewAhead s.launch th k = some v → instrAt s.launch v'.thread.pc = some i' →
    instrAt s.launch v.thread.pc = some i → v'.thread.taken = none → active s.launch v'.thread i'.record = true →
    Reads i.record i'.record → act (.ahead k) s = goOn s th

/-- In program order no event ever takes effect ahead of its turn: a machine of which none has keeps having none (R38,
`program_order`). -/
def Obligations.ProgramOrderHoldsNothingBack : Prop :=
  ∀ s s' : State, s.launch.ordering = .programOrder → (∀ th ∈ s.threads, th.early = []) → step s = .next s' →
    ∀ th ∈ s'.threads, th.early = []

/-- A later event on other bytes that reads nothing an older one still has to write may take effect first (R38 (4), R39). Where the
state that it finds is ready for it, it does so when it is chosen, however many instructions lie between, whatever these wait
for: memory changes in its bytes alone, to what `exec` makes them for the thread that the view shows; and of the thread
nothing changes but that this event is noted, with what Rd and Ps are to receive (log 17). -/
def Obligations.YoungerEventMayTakeEffectFirst : Prop :=
  ∀ (s : State) (th : Thread) (k : Nat) (v : View) (i : Instr), s.launch.ordering = .relaxed → s.thread = some th →
    viewAhead s.launch th k = some v → instrAt s.launch v.thread.pc = some i → i.record.op ≠ .safeAdd →
    Ready i (s.setThread v.thread) v.thread → (∀ e ∈ v.thread.early, e.pc ≠ v.thread.pc) →
    (∀ r ∈ v.regs, r ∉ sourceRegs i.record) → (∀ p ∈ v.preds, i.record.common.guard.pg ≠ .p p) →
    (∀ a ∈ v.accesses, Apart a.1 a.2 (effectiveAddress i.record v.thread.regs) i.record.sz.bytes) →
    (∀ e ∈ v.thread.early, Apart e.address e.bytes (effectiveAddress i.record v.thread.regs) i.record.sz.bytes) →
    ∃ s₁ done s' e, exec i (s.setThread v.thread) = .next s₁ ∧ s₁.thread = some done ∧ act (.ahead k) s = .next s' ∧
      s'.mem = s₁.mem ∧
      (let ea := (effectiveAddress i.record v.thread.regs).toNat
       ∀ a, a < ea ∨ ea + i.record.sz.bytes ≤ a → readByte s'.mem a = readByte s.mem a) ∧
      s'.thread = some { th with early := th.early ++ [e] } ∧ OthersSame s s' ∧ s'.draws = s.draws ∧
      e.pc = v.thread.pc ∧ e.address = effectiveAddress i.record v.thread.regs ∧ e.bytes = i.record.sz.bytes ∧
      (∀ n x, (n, x) ∈ e.regs ↔ n ∈ destRegs i.record ∧ x = readReg done.regs (.r n)) ∧
      ∀ p b, (p, b) ∈ e.preds ↔ p ∈ destPreds i.record ∧ b = readPred done.preds (.p p)

/-- What stands between the pc and a later instruction. One whose event went ahead has its results settled; one that the thread does
not execute counts for nothing; one that it executes, and whose event is still to come, leaves its registers and Ps to be
written and, if its address is known, its bytes; none is passed over that raises an error, since nothing after it is executed
(R166), or that accesses a sparse page (R153, R155). The machinery is the model's (log 17). -/
def Obligations.InstructionsBetweenLeaveTheirResultsToBeWritten : Prop :=
  ∀ (L : Launch) (th : Thread), viewAhead L th 0 = some ⟨th, [], [], []⟩ ∧
    ∀ (k : Nat) (v : View), viewAhead L th k = some v →
      (instrAt L v.thread.pc = none → viewAhead L th (k + 1) = none) ∧
      ∀ i : Instr, instrAt L v.thread.pc = some i →
        (∀ e, v.thread.taken = some e → viewAhead L th (k + 1) = some { v with thread := settle L e v.thread }) ∧
        (v.thread.taken = none →
          (active L v.thread i.record = false →
            viewAhead L th (k + 1) = some { v with thread := { v.thread with pc := v.thread.pc + L.ilen } }) ∧
          (active L v.thread i.record = true →
            let passed : List (DWord × Nat) → View := fun new =>
              { thread := { v.thread with pc := v.thread.pc + L.ilen, preds := writePs i.record v.thread.preds false }
                regs := destRegs i.record ++ v.regs
                preds := destPreds i.record ++ v.preds
                accesses := new ++ v.accesses }
            let ea := effectiveAddress i.record v.thread.regs
            ((∃ r ∈ baseRegs i.record, r ∈ v.regs) → viewAhead L th (k + 1) = some (passed [])) ∧
            ((∀ r ∈ baseRegs i.record, r ∉ v.regs) →
              (accessAllowed L ea i.record.sz.bytes → viewAhead L th (k + 1) = some (passed [(ea, i.record.sz.bytes)])) ∧
              (¬accessAllowed L ea i.record.sz.bytes → viewAhead L th (k + 1) = none))))
end

