-- ==== Sys2Proof/Laws/Store.lean ====
section
/-!
SUPPORT. Laws of the store: a read after a write to the same number gives the value written, a write leaves every other number
alone, and every write keeps the canonical form.
-/

namespace Sys2Proof.Machine

variable {w : Nat}

@[simp] theorem storeGet_nil (a : Nat) : storeGet (w := w) a [] = 0#w := rfl

theorem storeGet_cons (a k : Nat) (v : BitVec w) (t : Store w) :
    storeGet a ((k, v) :: t) = if k = a then v else storeGet a t := rfl

theorem storeGet_erase_same (a : Nat) (m : Store w) : storeGet a (storeErase a m) = 0#w := by
  induction m with
  | nil => rfl
  | cons p t ih =>
    obtain ⟨k, v⟩ := p
    by_cases h : k = a
    · simpa [storeErase, h] using ih
    · simpa [storeErase, h, storeGet_cons] using ih

theorem storeGet_erase_other {a b : Nat} (h : b ≠ a) (m : Store w) : storeGet b (storeErase a m) = storeGet b m := by
  induction m with
  | nil => rfl
  | cons p t ih =>
    obtain ⟨k, v⟩ := p
    by_cases hk : k = a
    · have : k ≠ b := fun e => h (e ▸ hk)
      simpa [storeErase, hk, storeGet_cons, Ne.symm h] using ih
    · simp only [storeErase, ne_eq, hk, not_false_eq_true, decide_true, List.filter_cons_of_pos, storeGet_cons] at ih ⊢
      rw [ih]

theorem storeGet_insert_same (a : Nat) (v : BitVec w) (m : Store w) (h : ∀ p ∈ m, p.1 ≠ a) :
    storeGet a (storeInsert a v m) = v := by
  induction m with
  | nil => simp [storeInsert, storeGet_cons]
  | cons p t ih =>
    obtain ⟨k, x⟩ := p
    have hk : k ≠ a := h (k, x) (by simp)
    by_cases hlt : a < k
    · simp [storeInsert, hlt, storeGet_cons]
    · simp only [storeInsert, hlt, if_false, storeGet_cons, hk]
      exact ih fun q hq => h q (List.mem_cons_of_mem _ hq)

theorem storeGet_insert_other {a b : Nat} (h : b ≠ a) (v : BitVec w) (m : Store w) :
    storeGet b (storeInsert a v m) = storeGet b m := by
  induction m with
  | nil => simp [storeInsert, storeGet_cons, Ne.symm h]
  | cons p t ih =>
    obtain ⟨k, x⟩ := p
    by_cases hlt : a < k
    · simp [storeInsert, hlt, storeGet_cons, Ne.symm h]
    · simp [storeInsert, hlt, storeGet_cons, ih]

theorem storeErase_ne {a : Nat} {m : Store w} {p : Nat × BitVec w} (h : p ∈ storeErase a m) : p.1 ≠ a := by
  simpa using (List.mem_filter.mp h).2

/-- A read after a write to the same number gives the value written. -/
@[simp] theorem storeGet_put_same (a : Nat) (v : BitVec w) (m : Store w) : storeGet a (storePut a v m) = v := by
  unfold storePut
  split
  · next h => rw [storeGet_erase_same, h]
  · exact storeGet_insert_same a v _ fun _ hp => storeErase_ne hp

/-- A write leaves every other number alone. -/
theorem storeGet_put_other {a b : Nat} (h : b ≠ a) (v : BitVec w) (m : Store w) :
    storeGet b (storePut a v m) = storeGet b m := by
  unfold storePut
  split
  · exact storeGet_erase_other h m
  · rw [storeGet_insert_other h, storeGet_erase_other h]

/-- What a read after a write gives. -/
theorem storeGet_put (a b : Nat) (v : BitVec w) (m : Store w) :
    storeGet b (storePut a v m) = if b = a then v else storeGet b m := by
  split
  · next h => rw [h, storeGet_put_same]
  · next h => exact storeGet_put_other h v m

theorem storeWf_nil : storeWf (w := w) [] := ⟨List.Pairwise.nil, nofun⟩

theorem storeErase_wf {a : Nat} {m : Store w} (h : storeWf m) : storeWf (storeErase a m) :=
  ⟨h.1.filter _, fun p hp => h.2 p (List.mem_filter.mp hp).1⟩

theorem storeInsert_mem {a : Nat} {v : BitVec w} {m : Store w} {p : Nat × BitVec w} (h : p ∈ storeInsert a v m) :
    p = (a, v) ∨ p ∈ m := by
  induction m with
  | nil => simpa [storeInsert] using h
  | cons q t ih =>
    obtain ⟨k, x⟩ := q
    by_cases hlt : a < k
    · simpa [storeInsert, hlt] using h
    · simp only [storeInsert, hlt, if_false, List.mem_cons] at h ⊢
      rcases h with h | h
      · exact .inr (.inl h)
      · rcases ih h with h | h
        · exact .inl h
        · exact .inr (.inr h)

theorem storeInsert_wf {a : Nat} {v : BitVec w} {m : Store w} (hv : v ≠ 0#w) (hne : ∀ p ∈ m, p.1 ≠ a) (h : storeWf m) :
    storeWf (storeInsert a v m) := by
  refine ⟨?_, ?_⟩
  · have hs := h.1
    clear h
    induction m with
    | nil => simp [storeInsert]
    | cons q t ih =>
      obtain ⟨k, x⟩ := q
      have hk : k ≠ a := hne (k, x) (by simp)
      obtain ⟨hhead, htail⟩ := List.pairwise_cons.mp hs
      by_cases hlt : a < k
      · simp only [storeInsert, hlt, if_true]
        refine List.pairwise_cons.mpr ⟨?_, hs⟩
        intro p hp
        rcases List.mem_cons.mp hp with rfl | hp
        · exact hlt
        · exact Nat.lt_trans hlt (hhead p hp)
      · simp only [storeInsert, hlt, if_false]
        refine List.pairwise_cons.mpr ⟨?_, ih (fun p hp => hne p (List.mem_cons_of_mem _ hp)) htail⟩
        intro p hp
        rcases storeInsert_mem hp with rfl | hp
        · have hka : k < a := by omega
          exact hka
        · exact hhead p hp
  · intro p hp
    rcases storeInsert_mem hp with rfl | hp
    · exact hv
    · exact h.2 p hp

/-- Every write keeps the canonical form. -/
theorem storePut_wf (a : Nat) (v : BitVec w) {m : Store w} (h : storeWf m) : storeWf (storePut a v m) := by
  unfold storePut
  split
  · exact storeErase_wf h
  · next hv => exact storeInsert_wf hv (fun _ hp => storeErase_ne hp) (storeErase_wf h)

end Sys2Proof.Machine
end

