-- ==== Sys2Proof/Laws/Memory.lean ====
section
/-!
SUPPORT. Laws of global memory: what a read of a byte, a word or a doubleword gives after a write (R30, R32), that a write touches
its own bytes alone, and that every memory operation keeps the canonical form.
-/

namespace Sys2Proof.Machine

@[simp] theorem readByte_writeByte_same (m : Memory) (a : Nat) (v : Byte) : readByte (writeByte m a v) a = v :=
  storeGet_put_same a v m

theorem readByte_writeByte (m : Memory) (a b : Nat) (v : Byte) :
    readByte (writeByte m a v) b = if b = a then v else readByte m b := storeGet_put a b v m

/-- Every byte after a 4-byte write (R32). -/
theorem readByte_write32 (m : Memory) (a b : Nat) (v : Word) :
    readByte (write32 m a v) b =
      if b = a then v.extractLsb' 0 8 else if b = a + 1 then v.extractLsb' 8 8
      else if b = a + 2 then v.extractLsb' 16 8 else if b = a + 3 then v.extractLsb' 24 8 else readByte m b := by
  simp only [write32, readByte_writeByte]
  split_ifs <;> first | rfl | omega

/-- A 4-byte write leaves every byte outside its four alone. -/
theorem readByte_write32_other {m : Memory} {a b : Nat} {v : Word} (h : b < a ∨ a + 4 ≤ b) :
    readByte (write32 m a v) b = readByte m b := by
  rw [readByte_write32]
  split_ifs <;> first | rfl | omega

/-- An 8-byte write leaves every byte outside its eight alone. -/
theorem readByte_write64_other {m : Memory} {a b : Nat} {v : DWord} (h : b < a ∨ a + 8 ≤ b) :
    readByte (write64 m a v) b = readByte m b := by
  unfold write64
  rw [readByte_write32_other (by omega), readByte_write32_other (by omega)]

theorem word_of_bytes (v : Word) :
    (v.extractLsb' 24 8 ++ v.extractLsb' 16 8 ++ v.extractLsb' 8 8 ++ v.extractLsb' 0 8 : BitVec 32) = v := by
  apply BitVec.eq_of_getLsbD_eq
  intro i hi
  simp only [BitVec.getLsbD_append, BitVec.getLsbD_extractLsb']
  split_ifs <;> (rw [decide_eq_true (by omega), Bool.true_and]; congr 1; omega)

/-- A word read where it was written. -/
@[simp] theorem read32_write32_same (m : Memory) (a : Nat) (v : Word) : read32 (write32 m a v) a = v := by
  simp only [read32, readByte_write32]
  simp
  exact word_of_bytes v

/-- A word read apart from where one was written. -/
theorem read32_write32_other {m : Memory} {a b : Nat} {v : Word} (h : b + 4 ≤ a ∨ a + 4 ≤ b) :
    read32 (write32 m a v) b = read32 m b := by
  simp only [read32]
  rw [readByte_write32_other (by omega), readByte_write32_other (by omega), readByte_write32_other (by omega),
    readByte_write32_other (by omega)]

theorem dword_of_words (v : DWord) : (v.extractLsb' 32 32 ++ v.extractLsb' 0 32 : BitVec 64) = v := by
  apply BitVec.eq_of_getLsbD_eq
  intro i hi
  simp only [BitVec.getLsbD_append, BitVec.getLsbD_extractLsb']
  split_ifs <;> (rw [decide_eq_true (by omega), Bool.true_and]; congr 1; omega)

/-- A doubleword read where it was written. -/
@[simp] theorem read64_write64_same (m : Memory) (a : Nat) (v : DWord) : read64 (write64 m a v) a = v := by
  unfold read64 write64
  rw [read32_write32_same, read32_write32_other (by omega), read32_write32_same]
  exact dword_of_words v

theorem writeByte_wf (a : Nat) (v : Byte) {m : Memory} (h : m.wf) : (writeByte m a v).wf := storePut_wf a v h

/-- A 4-byte write keeps the canonical form. -/
theorem write32_wf (a : Nat) (v : Word) {m : Memory} (h : m.wf) : (write32 m a v).wf :=
  writeByte_wf _ _ (writeByte_wf _ _ (writeByte_wf _ _ (writeByte_wf _ _ h)))

/-- An 8-byte write keeps the canonical form. -/
theorem write64_wf (a : Nat) (v : DWord) {m : Memory} (h : m.wf) : (write64 m a v).wf :=
  write32_wf _ _ (write32_wf _ _ h)

end Sys2Proof.Machine
end

