-- ==== Sys2Proof/Laws/Registers.lean ====
section
/-!
SUPPORT. Laws of the general and predicate registers: RZ and PT (R11, R14), a read after a write, the halves of a pair (R12), and
the canonical form of the register file.
-/

namespace Sys2Proof.Machine

@[simp] theorem readReg_rz (regs : Store 32) : readReg regs .rz = 0#32 := rfl
@[simp] theorem readPair_rz (regs : Store 32) : readPair regs .rz = 0#64 := rfl
@[simp] theorem writeReg_rz (regs : Store 32) (v : Word) : writeReg regs .rz v = regs := rfl
@[simp] theorem writePair_rz (regs : Store 32) (v : DWord) : writePair regs .rz v = regs := rfl
@[simp] theorem readPred_pt (preds : Vector Bool 7) : readPred preds .pt = true := rfl
@[simp] theorem writePred_pt (preds : Vector Bool 7) (b : Bool) : writePred preds .pt b = preds := rfl

/-- What register `k` holds after a 32-bit write. -/
theorem readReg_writeReg (regs : Store 32) (n k : Nat) (v : Word) :
    readReg (writeReg regs (.r n) v) (.r k) = if k = n then v else readReg regs (.r k) := storeGet_put n k v regs

/-- What register `k` holds after a pair is written: the low half in the lower number (R12). -/
theorem readReg_writePair (regs : Store 32) (n k : Nat) (v : DWord) :
    readReg (writePair regs (.r n) v) (.r k) =
      if k = n + 1 then v.extractLsb' 32 32 else if k = n then v.extractLsb' 0 32 else readReg regs (.r k) := by
  simp only [readReg, writePair, storeGet_put]

/-- What predicate `j` holds after a predicate is written. -/
theorem readPred_writePred (preds : Vector Bool 7) (k j : Fin 7) (b : Bool) :
    readPred (writePred preds (.p k) b) (.p j) = if j = k then b else readPred preds (.p j) := by
  simp only [readPred, writePred, Fin.getElem_fin, Vector.getElem_set, Fin.ext_iff, eq_comm]

theorem writeReg_wf (r : Reg) (v : Word) {regs : Store 32} (h : storeWf regs) : storeWf (writeReg regs r v) := by
  cases r with
  | r n => exact storePut_wf n v h
  | rz => exact h

theorem writePair_wf (r : Reg) (v : DWord) {regs : Store 32} (h : storeWf regs) : storeWf (writePair regs r v) := by
  cases r with
  | r n => exact storePut_wf _ _ (storePut_wf _ _ h)
  | rz => exact h

end Sys2Proof.Machine
end

