-- ==== Sys2Proof/Laws/State.lean ====
section
/-!
SUPPORT. One lemma per field per update of the state and of a thread, so that no later proof unfolds a record update.
-/

namespace Sys2Proof.Machine

@[simp] theorem setMem_mem (s : State) (m : Memory) : (s.setMem m).mem = m := rfl
@[simp] theorem setMem_threads (s : State) (m : Memory) : (s.setMem m).threads = s.threads := rfl
@[simp] theorem setMem_launch (s : State) (m : Memory) : (s.setMem m).launch = s.launch := rfl
@[simp] theorem setMem_cur (s : State) (m : Memory) : (s.setMem m).cur = s.cur := rfl
@[simp] theorem setMem_schedule (s : State) (m : Memory) : (s.setMem m).schedule = s.schedule := rfl
@[simp] theorem setMem_draws (s : State) (m : Memory) : (s.setMem m).draws = s.draws := rfl
@[simp] theorem setMem_thread (s : State) (m : Memory) : (s.setMem m).thread = s.thread := rfl

@[simp] theorem setThread_mem (s : State) (th : Thread) : (s.setThread th).mem = s.mem := rfl
@[simp] theorem setThread_threads (s : State) (th : Thread) : (s.setThread th).threads = s.threads.set s.cur th := rfl
@[simp] theorem setThread_launch (s : State) (th : Thread) : (s.setThread th).launch = s.launch := rfl
@[simp] theorem setThread_cur (s : State) (th : Thread) : (s.setThread th).cur = s.cur := rfl
@[simp] theorem setThread_schedule (s : State) (th : Thread) : (s.setThread th).schedule = s.schedule := rfl
@[simp] theorem setThread_draws (s : State) (th : Thread) : (s.setThread th).draws = s.draws := rfl

@[simp] theorem raiseError_mem (s : State) (th : Thread) (e : ErrorKind) (es : List ErrorKind) (ea : DWord) : (raiseError s th e es ea).mem = s.mem := rfl
@[simp] theorem raiseError_threads (s : State) (th : Thread) (e : ErrorKind) (es : List ErrorKind) (ea : DWord) : (raiseError s th e es ea).threads = s.threads.set s.cur { th with fault := some (chooseError e es s.draws, ea) } := rfl
@[simp] theorem raiseError_launch (s : State) (th : Thread) (e : ErrorKind) (es : List ErrorKind) (ea : DWord) : (raiseError s th e es ea).launch = s.launch := rfl
@[simp] theorem raiseError_cur (s : State) (th : Thread) (e : ErrorKind) (es : List ErrorKind) (ea : DWord) : (raiseError s th e es ea).cur = s.cur := rfl
@[simp] theorem raiseError_schedule (s : State) (th : Thread) (e : ErrorKind) (es : List ErrorKind) (ea : DWord) : (raiseError s th e es ea).schedule = s.schedule := rfl
@[simp] theorem raiseError_draws (s : State) (th : Thread) (e : ErrorKind) (es : List ErrorKind) (ea : DWord) : (raiseError s th e es ea).draws = s.draws + 1 := rfl

@[simp] theorem advancePc_regs (L : Launch) (th : Thread) : (advancePc L th).regs = th.regs := rfl
@[simp] theorem advancePc_preds (L : Launch) (th : Thread) : (advancePc L th).preds = th.preds := rfl
@[simp] theorem advancePc_pc (L : Launch) (th : Thread) : (advancePc L th).pc = th.pc + L.ilen := rfl
@[simp] theorem advancePc_helper (L : Launch) (th : Thread) : (advancePc L th).helper = th.helper := rfl
@[simp] theorem advancePc_killed (L : Launch) (th : Thread) : (advancePc L th).killed = th.killed := rfl
@[simp] theorem advancePc_fault (L : Launch) (th : Thread) : (advancePc L th).fault = th.fault := rfl
@[simp] theorem advancePc_scoreboards (L : Launch) (th : Thread) : (advancePc L th).scoreboards = th.scoreboards := rfl
@[simp] theorem advancePc_early (L : Launch) (th : Thread) : (advancePc L th).early = th.early := rfl

@[simp] theorem retire_regs (L : Launch) (I : AtomInstr) (th : Thread) (regs : Store 32) (b : Bool) : (retire L I th regs b).regs = regs := rfl
@[simp] theorem retire_preds (L : Launch) (I : AtomInstr) (th : Thread) (regs : Store 32) (b : Bool) : (retire L I th regs b).preds = writePs I th.preds b := rfl
@[simp] theorem retire_pc (L : Launch) (I : AtomInstr) (th : Thread) (regs : Store 32) (b : Bool) : (retire L I th regs b).pc = th.pc + L.ilen := rfl
@[simp] theorem retire_helper (L : Launch) (I : AtomInstr) (th : Thread) (regs : Store 32) (b : Bool) : (retire L I th regs b).helper = th.helper := rfl
@[simp] theorem retire_killed (L : Launch) (I : AtomInstr) (th : Thread) (regs : Store 32) (b : Bool) : (retire L I th regs b).killed = th.killed := rfl
@[simp] theorem retire_fault (L : Launch) (I : AtomInstr) (th : Thread) (regs : Store 32) (b : Bool) : (retire L I th regs b).fault = th.fault := rfl
@[simp] theorem retire_scoreboards (L : Launch) (I : AtomInstr) (th : Thread) (regs : Store 32) (b : Bool) : (retire L I th regs b).scoreboards = th.scoreboards := rfl
@[simp] theorem retire_early (L : Launch) (I : AtomInstr) (th : Thread) (regs : Store 32) (b : Bool) : (retire L I th regs b).early = th.early := rfl

@[simp] theorem choiceTaken_mem (s : State) : (choiceTaken s).mem = s.mem := by unfold choiceTaken; split <;> rfl
@[simp] theorem choiceTaken_threads (s : State) : (choiceTaken s).threads = s.threads := by unfold choiceTaken; split <;> rfl
@[simp] theorem choiceTaken_launch (s : State) : (choiceTaken s).launch = s.launch := by unfold choiceTaken; split <;> rfl
@[simp] theorem choiceTaken_cur (s : State) : (choiceTaken s).cur = s.cur := by unfold choiceTaken; split <;> rfl
@[simp] theorem runAs_mem (s : State) (t : Nat) : (runAs s t).mem = s.mem := choiceTaken_mem s
@[simp] theorem runAs_threads (s : State) (t : Nat) : (runAs s t).threads = s.threads := choiceTaken_threads s
@[simp] theorem runAs_launch (s : State) (t : Nat) : (runAs s t).launch = s.launch := choiceTaken_launch s
@[simp] theorem runAs_cur (s : State) (t : Nat) : (runAs s t).cur = t := rfl
@[simp] theorem runAs_thread (s : State) (t : Nat) : (runAs s t).thread = s.threads[t]? := by
  simp [State.thread]

/-- The executing thread after it has been replaced. -/
theorem setThread_thread {s : State} {th0 : Thread} (h : s.thread = some th0) (th : Thread) :
    (s.setThread th).thread = some th := by
  have hlt : s.cur < s.threads.length := (List.getElem?_eq_some_iff.mp h).1
  simp [State.thread, hlt]

/-- Replacing the executing thread leaves every other thread alone (R172). -/
theorem setThread_other {s : State} {t : Nat} (h : t ≠ s.cur) (th : Thread) :
    (s.setThread th).threads[t]? = s.threads[t]? := by
  simp [List.getElem?_set_ne (Ne.symm h)]

/-- A thread of the list after the executing one has been replaced. -/
theorem mem_setThread {s : State} {th th' : Thread} (h : th' ∈ (s.setThread th).threads) : th' = th ∨ th' ∈ s.threads := by
  have := List.mem_or_eq_of_mem_set h
  tauto

theorem thread_mem {s : State} {th : Thread} (h : s.thread = some th) : th ∈ s.threads := List.mem_of_getElem? h

end Sys2Proof.Machine
end

