-- ==== Sys2Proof/Laws/WellFormed.lean ====
section
/-!
SUPPORT. The two readings of the checks of R75 agree: an instruction is well formed when no check refuses it.
-/

namespace Sys2Proof

/-- No check refuses exactly the well-formed records. -/
theorem AtomInstr.firstProblem_eq_none_iff {numGpr : Nat} {spa : SpaVersion} {I : AtomInstr} :
    I.firstProblem numGpr spa = none ↔ I.wf numGpr spa = true := by
  simp [AtomInstr.firstProblem, AtomInstr.wf, List.find?_eq_none]

/-- A record that is not well formed has a first problem. -/
theorem AtomInstr.firstProblem_of_not_wf {numGpr : Nat} {spa : SpaVersion} {I : AtomInstr} (h : I.wf numGpr spa = false) :
    ∃ why, I.firstProblem numGpr spa = some why := by
  cases hp : I.firstProblem numGpr spa with
  | some why => exact ⟨why, rfl⟩
  | none => simp [AtomInstr.firstProblem_eq_none_iff.mp hp] at h

end Sys2Proof
end

