-- ==== Sys2Proof/Laws/Atom.lean ====
section
/-!
SUPPORT. What the shared execution of R80 can do, said once: a false guard or a thread that does not participate advances the pc, an
error is raised, or the event is performed; and what each of these leaves.
-/

namespace Sys2Proof.Machine

variable {I : AtomInstr} {i : Instr} {s s' : State} {th : Thread} {event : Thread → DWord → Out}

/-- The error that is recorded is one of those that apply (R165). -/
theorem chooseError_mem (e : ErrorKind) (es : List ErrorKind) (n : Nat) : chooseError e es n ∈ e :: es := by
  unfold chooseError
  split
  · exact List.mem_cons_self
  · next e' es' =>
    have h : Config.freeError n % (es'.length + 2) < (e :: e' :: es').length := Nat.mod_lt _ (by omega)
    rw [List.getD_eq_getElem _ _ h]
    exact List.getElem_mem h

/-- An instruction that is not well formed is refused (R75). -/
theorem execChecked_ill (h : I.wf s.launch.numGpr s.launch.spa = false) :
    ∃ why, execChecked I s event = .refused (.illFormed why) := by
  obtain ⟨why, hw⟩ := AtomInstr.firstProblem_of_not_wf h
  exact ⟨why, by simp [execChecked, hw]⟩

/-- A thread that does not execute the instruction only advances its pc (R81, R82). -/
theorem execChecked_inactive (hwf : I.wf s.launch.numGpr s.launch.spa = true) (ht : s.thread = some th)
    (ha : active s.launch th I = false) : execChecked I s event = .next (s.setThread (advancePc s.launch th)) := by
  simp [execChecked, AtomInstr.firstProblem_eq_none_iff.mpr hwf, ht, ha]

/-- An error that applies is raised (R88, R166). -/
theorem execChecked_error (hwf : I.wf s.launch.numGpr s.launch.spa = true) (ht : s.thread = some th)
    (ha : active s.launch th I = true) {e : ErrorKind} {es : List ErrorKind}
    (he : applicableErrors s.launch (effectiveAddress I th.regs) I.sz.bytes = e :: es) :
    execChecked I s event = .next (raiseError s th e es (effectiveAddress I th.regs)) := by
  simp [execChecked, AtomInstr.firstProblem_eq_none_iff.mpr hwf, ht, ha, he]

/-- An access to a sparse page is refused (R153, R155). -/
theorem execChecked_sparse (hwf : I.wf s.launch.numGpr s.launch.spa = true) (ht : s.thread = some th)
    (ha : active s.launch th I = true) (he : applicableErrors s.launch (effectiveAddress I th.regs) I.sz.bytes = [])
    (hs : sparseAt s.launch (effectiveAddress I th.regs) = true) : execChecked I s event = .refused .sparsePage := by
  simp [execChecked, AtomInstr.firstProblem_eq_none_iff.mpr hwf, ht, ha, he, hs]

/-- Where the state is ready the event is what happens (R80, step 7). -/
theorem execChecked_ready (h : Ready i s th) :
    execChecked i.record s event = event th (effectiveAddress i.record th.regs) := by
  obtain ⟨ht, hwf, ha, he, hs⟩ := h
  simp [execChecked, AtomInstr.firstProblem_eq_none_iff.mpr hwf, ht, ha, he, hs]

/-- All that a next state of the shared execution can be. -/
theorem execChecked_next (h : execChecked i.record s event = .next s') :
    i.wf s.launch.numGpr s.launch.spa = true ∧ ∃ th, s.thread = some th ∧
      ((active s.launch th i.record = false ∧ s' = s.setThread (advancePc s.launch th)) ∨
       (active s.launch th i.record = true ∧ ∃ e es,
          applicableErrors s.launch (effectiveAddress i.record th.regs) i.record.sz.bytes = e :: es ∧
          s' = raiseError s th e es (effectiveAddress i.record th.regs)) ∨
       (Ready i s th ∧ event th (effectiveAddress i.record th.regs) = .next s')) := by
  unfold execChecked at h
  cases hp : i.record.firstProblem s.launch.numGpr s.launch.spa with
  | some why => simp [hp] at h
  | none =>
    have hwf := AtomInstr.firstProblem_eq_none_iff.mp hp
    refine ⟨hwf, ?_⟩
    cases ht : s.thread with
    | none => simp [hp, ht] at h
    | some th =>
      refine ⟨th, rfl, ?_⟩
      simp only [hp, ht] at h
      cases ha : active s.launch th i.record with
      | false => exact .inl ⟨rfl, by simpa [ha] using h.symm⟩
      | true =>
        simp only [ha, if_true] at h
        cases he : applicableErrors s.launch (effectiveAddress i.record th.regs) i.record.sz.bytes with
        | cons e es => exact .inr (.inl ⟨rfl, e, es, rfl, by simpa [he] using h.symm⟩)
        | nil =>
          simp only [he] at h
          cases hs : sparseAt s.launch (effectiveAddress i.record th.regs) with
          | true => simp [hs] at h
          | false => exact .inr (.inr ⟨⟨ht, hwf, ha, he, hs⟩, by simpa [hs] using h⟩)

/-- Memory after the event on 4 bytes. -/
@[simp] theorem perform32_mem (f : Word → Word → Word → Word) (ea : DWord) :
    (perform32 I f s th ea).mem =
      write32 s.mem ea.toNat (f (read32 s.mem ea.toNat) (readReg th.regs I.rb) (readReg th.regs I.rc)) := rfl

/-- The thread after the event on 4 bytes. -/
theorem perform32_thread (h : s.thread = some th) (f : Word → Word → Word → Word) (ea : DWord) :
    (perform32 I f s th ea).thread =
      some (retire s.launch I th (writeReg th.regs I.rd (read32 s.mem ea.toNat)) (sparseAt s.launch ea)) :=
  setThread_thread (by simpa using h) _

/-- Memory after the event on 8 bytes. -/
@[simp] theorem perform64_mem (f : DWord → DWord → DWord → DWord) (ea : DWord) :
    (perform64 I f s th ea).mem =
      write64 s.mem ea.toNat (f (read64 s.mem ea.toNat) (readPair th.regs I.rb) (readPair th.regs I.rc)) := rfl

/-- The thread after the event on 8 bytes. -/
theorem perform64_thread (h : s.thread = some th) (f : DWord → DWord → DWord → DWord) (ea : DWord) :
    (perform64 I f s th ea).thread =
      some (retire s.launch I th (writePair th.regs I.rd (read64 s.mem ea.toNat)) (sparseAt s.launch ea)) :=
  setThread_thread (by simpa using h) _

@[simp] theorem perform32_threads (f : Word → Word → Word → Word) (ea : DWord) :
    (perform32 I f s th ea).threads = s.threads.set s.cur
      (retire s.launch I th (writeReg th.regs I.rd (read32 s.mem ea.toNat)) (sparseAt s.launch ea)) := rfl
@[simp] theorem perform64_threads (f : DWord → DWord → DWord → DWord) (ea : DWord) :
    (perform64 I f s th ea).threads = s.threads.set s.cur
      (retire s.launch I th (writePair th.regs I.rd (read64 s.mem ea.toNat)) (sparseAt s.launch ea)) := rfl
@[simp] theorem perform32_launch (f : Word → Word → Word → Word) (ea : DWord) :
    (perform32 I f s th ea).launch = s.launch := rfl
@[simp] theorem perform64_launch (f : DWord → DWord → DWord → DWord) (ea : DWord) :
    (perform64 I f s th ea).launch = s.launch := rfl
@[simp] theorem perform32_cur (f : Word → Word → Word → Word) (ea : DWord) : (perform32 I f s th ea).cur = s.cur := rfl
@[simp] theorem perform64_cur (f : DWord → DWord → DWord → DWord) (ea : DWord) : (perform64 I f s th ea).cur = s.cur := rfl

/-- An ATOM of a 4-byte size performs its event where the state is ready. -/
theorem atom32_ready (h : Ready i s th) (f : Word → Word → Word → Word) :
    atom32 i f s = .next (perform32 i.record f s th (effectiveAddress i.record th.regs)) := execChecked_ready h

/-- An ATOM of an 8-byte size performs its event where the state is ready. -/
theorem atom64_ready (h : Ready i s th) (f : DWord → DWord → DWord → DWord) :
    atom64 i f s = .next (perform64 i.record f s th (effectiveAddress i.record th.regs)) := execChecked_ready h

end Sys2Proof.Machine
end

