-- ==== Sys2Proof/Laws/Decode.lean ====
section
/-!
SUPPORT. Laws of reading and writing text: the number that a decimal text stands for, the tokens that a written list of tokens is
cut into, and that every name the encoder writes is a word that is read as what it names.
-/

namespace Sys2Proof

/-! ### Numbers -/

/-- The byte of a decimal digit is read as that digit. -/
theorem decDigitOf_digit {d : Nat} (h : d < 10) : decDigitOf (BitVec.ofNat 8 (48 + d)) = some d := by
  have hb : (BitVec.ofNat 8 (48 + d)).toNat = 48 + d := by
    rw [BitVec.toNat_ofNat]
    omega
  unfold decDigitOf
  rw [hb, if_pos (by omega)]
  congr 1
  omega

/-- The byte of a decimal digit is a byte of words. -/
theorem isWordByte_digit {d : Nat} (h : d < 10) : isWordByte (BitVec.ofNat 8 (48 + d)) = true := by
  have hb : (BitVec.ofNat 8 (48 + d)).toNat = 48 + d := by
    rw [BitVec.toNat_ofNat]
    omega
  unfold isWordByte
  rw [hb]
  have h1 : decide (48 ≤ 48 + d) = true := by simp
  have h2 : decide (48 + d ≤ 57) = true := by simpa using by omega
  rw [h1, h2]
  rfl

/-- The digits written before `acc` bring the value read so far from 0 to `n`. -/
theorem digitsFrom_decDigits (fuel n : Nat) (acc : Text) (h : n ≤ fuel) :
    digitsFrom 10 decDigitOf 0 (decDigits fuel n acc) = digitsFrom 10 decDigitOf n acc := by
  induction fuel generalizing n acc with
  | zero =>
    have : n = 0 := by omega
    subst this
    simp only [decDigits, digitsFrom]
    rw [decDigitOf_digit (by omega)]
  | succ fuel ih =>
    unfold decDigits
    split
    · next hn =>
      simp only [digitsFrom]
      rw [decDigitOf_digit hn]
      simp
    · next hn =>
      rw [ih (n / 10) _ (by omega)]
      simp only [digitsFrom]
      rw [decDigitOf_digit (by omega)]
      simp only
      congr 1
      omega

/-- Every byte that `decDigits` adds is a digit. -/
theorem decDigits_all {p : Byte → Bool} (hp : ∀ d, d < 10 → p (BitVec.ofNat 8 (48 + d)) = true) (fuel n : Nat) (acc : Text)
    (ha : acc.all p = true) : (decDigits fuel n acc).all p = true := by
  induction fuel generalizing n acc with
  | zero =>
    simp only [decDigits, List.all_cons, ha, Bool.and_true]
    exact hp _ (by omega)
  | succ fuel ih =>
    unfold decDigits
    split
    · next hn => simp only [List.all_cons, ha, Bool.and_true]; exact hp _ hn
    · refine ih _ _ ?_
      simp only [List.all_cons, ha, Bool.and_true]
      exact hp _ (by omega)

theorem decDigits_ne_nil (fuel n : Nat) (acc : Text) : decDigits fuel n acc ≠ [] := by
  induction fuel generalizing n acc with
  | zero => simp [decDigits]
  | succ fuel ih =>
    unfold decDigits
    split
    · simp
    · exact ih _ _

/-- A decimal number is not empty. -/
theorem decText_ne_nil (n : Nat) : decText n ≠ [] := decDigits_ne_nil _ _ _

/-- A decimal number is a word. -/
theorem decText_word (n : Nat) : (decText n).all isWordByte = true :=
  decDigits_all (fun _ => isWordByte_digit) _ _ _ rfl

/-- A decimal number is read as the number it was written for. -/
theorem decOf_decText (n : Nat) : decOf (decText n) = some n := by
  have hd : digitsFrom 10 decDigitOf 0 (decText n) = some n := digitsFrom_decDigits n n [] (Nat.le_refl n)
  unfold decOf
  split
  · next h => exact absurd h (decText_ne_nil n)
  · exact hd

/-- Every byte of a decimal number is a digit, so neither an `x` nor a letter. -/
theorem decText_digits (n : Nat) : (decText n).all (fun c => decide (48 ≤ c.toNat ∧ c.toNat ≤ 57)) = true := by
  refine decDigits_all (fun d hd => ?_) _ _ _ rfl
  have hb : (BitVec.ofNat 8 (48 + d)).toNat = 48 + d := by
    rw [BitVec.toNat_ofNat]
    omega
  simp only [hb, decide_eq_true_eq]
  omega

/-- A decimal number is read as a number of R73. -/
theorem numberOf_decText (n : Nat) : numberOf (decText n) = some n := by
  unfold numberOf
  split
  · next z x d ds h =>
    have hall := decText_digits n
    rw [h] at hall
    simp only [List.all_cons, Bool.and_eq_true, decide_eq_true_eq] at hall
    have hx : x ≠ ascii 'x' := by
      rintro rfl
      have : (ascii 'x').toNat ≤ 57 := hall.2.1.2
      exact absurd this (by decide)
    rw [if_neg (fun hc => hx hc.2)]
    exact decOf_decText n
  · exact decOf_decText n

/-! ### Registers and predicates -/

/-- A register's name is read as that register. -/
theorem regOf_name (r : Reg) : regOf r.name = some r := by
  cases r with
  | rz => decide +kernel
  | r n =>
    have hne : (Reg.r n).name ≠ text "RZ" := by
      intro h
      have hall := decText_digits n
      have : decText n = [90#8] := by
        have : (Reg.r n).name.tail = (text "RZ").tail := by rw [h]
        simpa [Reg.name] using this.trans (by decide +kernel : (text "RZ").tail = [90#8])
      rw [this] at hall
      exact absurd hall (by decide)
    unfold regOf
    rw [if_neg hne]
    simp only [Reg.name, decOf_decText, Option.map_some, if_true]

/-- A register's name is no predicate's. -/
theorem predOf_reg_name (r : Reg) : predOf r.name = none := by
  have hP : ∀ p : PredReg, p.name.head? = some (ascii 'P') := by
    intro p
    cases p with
    | pt => decide +kernel
    | p k => rfl
  have hR : r.name.head? = some (ascii 'R') := by
    cases r with
    | rz => decide +kernel
    | r n => rfl
  unfold predOf
  rw [List.find?_eq_none]
  intro p _
  simp only [decide_eq_true_eq]
  intro h
  have := (hP p).symm.trans (h ▸ hR)
  exact absurd this (by decide)

/-- A predicate's name is read as that predicate. -/
theorem predOf_name (p : PredReg) : predOf p.name = some p := by
  cases p with
  | pt => decide +kernel
  | p k => revert k; decide +kernel

theorem reg_name_word (r : Reg) : r.name ≠ [] ∧ r.name.all isWordByte = true := by
  cases r with
  | rz => exact ⟨by decide +kernel, by decide +kernel⟩
  | r n => exact ⟨by simp [Reg.name], by simp only [Reg.name, List.all_cons, decText_word, Bool.and_true]; decide⟩

theorem pred_name_word (p : PredReg) : p.name ≠ [] ∧ p.name.all isWordByte = true := by
  cases p with
  | pt => exact ⟨by decide +kernel, by decide +kernel⟩
  | p k => revert k; decide +kernel

/-- A mnemonic is a word, for every modifier, operation and size. -/
theorem mnemonicText_word (e : Bool) (op : Op) (sz : Sz) :
    mnemonicText e op sz ≠ [] ∧ (mnemonicText e op sz).all isWordByte = true := by
  revert e
  cases op <;> cases sz <;> decide +kernel

/-- A mnemonic of a legal pair is read as what it was written for (R58 to R62). -/
theorem mnemonicOf_mnemonicText (e : Bool) (op : Op) (sz : Sz) (h : legalPair op sz = true) :
    mnemonicOf (mnemonicText e op sz) = .ok (e, op, sz) := by
  revert e h
  cases op <;> cases sz <;> decide +kernel

/-! ### Tokens -/

/-- A token that the lexer gives back as it was written: a word is not empty and holds bytes of words alone. -/
def Tok.good : Tok → Bool
  | .word w => !w.isEmpty && w.all isWordByte
  | .sym _ => true
  | .bad _ => false

/-- A word and the blank after it are cut off as one token. -/
theorem lexFrom_word (w acc rest : Text) (hw : w.all isWordByte = true) (hne : acc ++ w ≠ []) :
    lexFrom (w ++ ascii ' ' :: rest) acc false = .word (acc.reverse ++ w) :: lexFrom rest [] false := by
  induction w generalizing acc with
  | nil =>
    cases acc with
    | nil => exact absurd rfl hne
    | cons a acc =>
      have h1 : isWordByte (ascii ' ') = false := by decide
      have h2 : isBlank (ascii ' ') = true := by decide
      simp [lexFrom, h1, h2, wordSoFar]
  | cons c w ih =>
    simp only [List.all_cons, Bool.and_eq_true] at hw
    simp only [List.cons_append, lexFrom, hw.1, if_true]
    rw [ih (c :: acc) hw.2 (by simp)]
    simp

/-- A punctuation sign is cut off as one token. -/
theorem lexFrom_sym (s : Sym) (rest : Text) : lexFrom (s.byte :: rest) [] false = .sym s :: lexFrom rest [] false := by
  have h1 : isWordByte s.byte = false := by cases s <;> decide
  have h2 : isBlank s.byte = false := by cases s <;> decide
  have h3 : s.byte ≠ ascii '#' := by cases s <;> decide
  have h4 : s.byte ≠ ascii '/' := by cases s <;> decide
  have h5 : symOf s.byte = some s := by cases s <;> decide
  simp [lexFrom, h1, h2, h3, h4, h5, wordSoFar]

/-- The lexer gives back the tokens that were written. -/
theorem lex_tokens (toks : List Tok) (h : toks.all Tok.good = true) : lex (toks.flatMap Tok.bytes) = toks := by
  unfold lex
  induction toks with
  | nil => rfl
  | cons t toks ih =>
    simp only [List.all_cons, Bool.and_eq_true] at h
    cases t with
    | word w =>
      have hg := h.1
      simp only [Tok.good, Bool.and_eq_true, Bool.not_eq_true', List.isEmpty_eq_false_iff] at hg
      simp only [List.flatMap_cons, Tok.bytes, List.append_assoc, List.singleton_append]
      rw [lexFrom_word w [] _ hg.2 (by simpa using hg.1), ih h.2]
      simp
    | sym s =>
      simp only [List.flatMap_cons, Tok.bytes, List.singleton_append]
      rw [lexFrom_sym, ih h.2]
    | bad c => simp [Tok.good] at h

end Sys2Proof
end

