-- ==== Sys2Proof/Laws/Exec.lean ====
section
/-!
SUPPORT. What executing an instruction is and can do: each instruction's meaning as the shared execution with its operation function
(one lemma per constructor, true by rfl), and, said once over all 102, the shape of every meaning and every next state.
-/

namespace Sys2Proof.Machine

variable {i : Instr} {s s' : State}

theorem exec_addU32Ri (c : Common) (rd ra : Reg) (imm : BitVec 20) (rb : Reg) (s : State) :
    exec (.addU32Ri c rd ra imm rb) s = atom32 (.addU32Ri c rd ra imm rb) (fun m b _ => aluAdd m b) s :=
  rfl

theorem exec_addU32Abs (c : Common) (rd : Reg) (imm : BitVec 20) (rb : Reg) (s : State) :
    exec (.addU32Abs c rd imm rb) s = atom32 (.addU32Abs c rd imm rb) (fun m b _ => aluAdd m b) s :=
  rfl

theorem exec_addU32Sp (c : Common) (ps : PredReg) (rd ra rb : Reg) (s : State) :
    exec (.addU32Sp c ps rd ra rb) s = atom32 (.addU32Sp c ps rd ra rb) (fun m b _ => aluAdd m b) s :=
  rfl

theorem exec_addS32Ri (c : Common) (rd ra : Reg) (imm : BitVec 20) (rb : Reg) (s : State) :
    exec (.addS32Ri c rd ra imm rb) s = atom32 (.addS32Ri c rd ra imm rb) (fun m b _ => aluAdd m b) s :=
  rfl

theorem exec_addS32Abs (c : Common) (rd : Reg) (imm : BitVec 20) (rb : Reg) (s : State) :
    exec (.addS32Abs c rd imm rb) s = atom32 (.addS32Abs c rd imm rb) (fun m b _ => aluAdd m b) s :=
  rfl

theorem exec_addS32Sp (c : Common) (ps : PredReg) (rd ra rb : Reg) (s : State) :
    exec (.addS32Sp c ps rd ra rb) s = atom32 (.addS32Sp c ps rd ra rb) (fun m b _ => aluAdd m b) s :=
  rfl

theorem exec_addU64Ri (c : Common) (rd ra : Reg) (imm : BitVec 20) (rb : Reg) (s : State) :
    exec (.addU64Ri c rd ra imm rb) s = atom64 (.addU64Ri c rd ra imm rb) (fun m b _ => aluAdd m b) s :=
  rfl

theorem exec_addU64Abs (c : Common) (rd : Reg) (imm : BitVec 20) (rb : Reg) (s : State) :
    exec (.addU64Abs c rd imm rb) s = atom64 (.addU64Abs c rd imm rb) (fun m b _ => aluAdd m b) s :=
  rfl

theorem exec_addU64Sp (c : Common) (ps : PredReg) (rd ra rb : Reg) (s : State) :
    exec (.addU64Sp c ps rd ra rb) s = atom64 (.addU64Sp c ps rd ra rb) (fun m b _ => aluAdd m b) s :=
  rfl

theorem exec_addF32Ri (c : Common) (rd ra : Reg) (imm : BitVec 20) (rb : Reg) (s : State) :
    exec (.addF32Ri c rd ra imm rb) s = atom32 (.addF32Ri c rd ra imm rb) (fun m b _ => fadd32 m b) s :=
  rfl

theorem exec_addF32Abs (c : Common) (rd : Reg) (imm : BitVec 20) (rb : Reg) (s : State) :
    exec (.addF32Abs c rd imm rb) s = atom32 (.addF32Abs c rd imm rb) (fun m b _ => fadd32 m b) s :=
  rfl

theorem exec_addF32Sp (c : Common) (ps : PredReg) (rd ra rb : Reg) (s : State) :
    exec (.addF32Sp c ps rd ra rb) s = atom32 (.addF32Sp c ps rd ra rb) (fun m b _ => fadd32 m b) s :=
  rfl

theorem exec_addF16x2Ri (c : Common) (rd ra : Reg) (imm : BitVec 20) (rb : Reg) (s : State) :
    exec (.addF16x2Ri c rd ra imm rb) s = atom32 (.addF16x2Ri c rd ra imm rb) (fun m b _ => onHalves fadd16 m b) s :=
  rfl

theorem exec_addF16x2Abs (c : Common) (rd : Reg) (imm : BitVec 20) (rb : Reg) (s : State) :
    exec (.addF16x2Abs c rd imm rb) s = atom32 (.addF16x2Abs c rd imm rb) (fun m b _ => onHalves fadd16 m b) s :=
  rfl

theorem exec_addF16x2Sp (c : Common) (ps : PredReg) (rd ra rb : Reg) (s : State) :
    exec (.addF16x2Sp c ps rd ra rb) s = atom32 (.addF16x2Sp c ps rd ra rb) (fun m b _ => onHalves fadd16 m b) s :=
  rfl

theorem exec_addF64Ri (c : Common) (rd ra : Reg) (imm : BitVec 20) (rb : Reg) (s : State) :
    exec (.addF64Ri c rd ra imm rb) s = atom64 (.addF64Ri c rd ra imm rb) (fun m b _ => fadd64 m b) s :=
  rfl

theorem exec_addF64Abs (c : Common) (rd : Reg) (imm : BitVec 20) (rb : Reg) (s : State) :
    exec (.addF64Abs c rd imm rb) s = atom64 (.addF64Abs c rd imm rb) (fun m b _ => fadd64 m b) s :=
  rfl

theorem exec_addF64Sp (c : Common) (ps : PredReg) (rd ra rb : Reg) (s : State) :
    exec (.addF64Sp c ps rd ra rb) s = atom64 (.addF64Sp c ps rd ra rb) (fun m b _ => fadd64 m b) s :=
  rfl

theorem exec_minU32Ri (c : Common) (rd ra : Reg) (imm : BitVec 20) (rb : Reg) (s : State) :
    exec (.minU32Ri c rd ra imm rb) s = atom32 (.minU32Ri c rd ra imm rb) (fun m b _ => aluMinU m b) s :=
  rfl

theorem exec_minU32Abs (c : Common) (rd : Reg) (imm : BitVec 20) (rb : Reg) (s : State) :
    exec (.minU32Abs c rd imm rb) s = atom32 (.minU32Abs c rd imm rb) (fun m b _ => aluMinU m b) s :=
  rfl

theorem exec_minU32Sp (c : Common) (ps : PredReg) (rd ra rb : Reg) (s : State) :
    exec (.minU32Sp c ps rd ra rb) s = atom32 (.minU32Sp c ps rd ra rb) (fun m b _ => aluMinU m b) s :=
  rfl

theorem exec_minS32Ri (c : Common) (rd ra : Reg) (imm : BitVec 20) (rb : Reg) (s : State) :
    exec (.minS32Ri c rd ra imm rb) s = atom32 (.minS32Ri c rd ra imm rb) (fun m b _ => aluMinS m b) s :=
  rfl

theorem exec_minS32Abs (c : Common) (rd : Reg) (imm : BitVec 20) (rb : Reg) (s : State) :
    exec (.minS32Abs c rd imm rb) s = atom32 (.minS32Abs c rd imm rb) (fun m b _ => aluMinS m b) s :=
  rfl

theorem exec_minS32Sp (c : Common) (ps : PredReg) (rd ra rb : Reg) (s : State) :
    exec (.minS32Sp c ps rd ra rb) s = atom32 (.minS32Sp c ps rd ra rb) (fun m b _ => aluMinS m b) s :=
  rfl

theorem exec_minU64Ri (c : Common) (rd ra : Reg) (imm : BitVec 20) (rb : Reg) (s : State) :
    exec (.minU64Ri c rd ra imm rb) s = atom64 (.minU64Ri c rd ra imm rb) (fun m b _ => aluMinU m b) s :=
  rfl

theorem exec_minU64Abs (c : Common) (rd : Reg) (imm : BitVec 20) (rb : Reg) (s : State) :
    exec (.minU64Abs c rd imm rb) s = atom64 (.minU64Abs c rd imm rb) (fun m b _ => aluMinU m b) s :=
  rfl

theorem exec_minU64Sp (c : Common) (ps : PredReg) (rd ra rb : Reg) (s : State) :
    exec (.minU64Sp c ps rd ra rb) s = atom64 (.minU64Sp c ps rd ra rb) (fun m b _ => aluMinU m b) s :=
  rfl

theorem exec_minS64Ri (c : Common) (rd ra : Reg) (imm : BitVec 20) (rb : Reg) (s : State) :
    exec (.minS64Ri c rd ra imm rb) s = atom64 (.minS64Ri c rd ra imm rb) (fun m b _ => aluMinS m b) s :=
  rfl

theorem exec_minS64Abs (c : Common) (rd : Reg) (imm : BitVec 20) (rb : Reg) (s : State) :
    exec (.minS64Abs c rd imm rb) s = atom64 (.minS64Abs c rd imm rb) (fun m b _ => aluMinS m b) s :=
  rfl

theorem exec_minS64Sp (c : Common) (ps : PredReg) (rd ra rb : Reg) (s : State) :
    exec (.minS64Sp c ps rd ra rb) s = atom64 (.minS64Sp c ps rd ra rb) (fun m b _ => aluMinS m b) s :=
  rfl

theorem exec_minF16x2Ri (c : Common) (rd ra : Reg) (imm : BitVec 20) (rb : Reg) (s : State) :
    exec (.minF16x2Ri c rd ra imm rb) s = atom32 (.minF16x2Ri c rd ra imm rb) (fun m b _ => onHalves fmin16 m b) s :=
  rfl

theorem exec_minF16x2Abs (c : Common) (rd : Reg) (imm : BitVec 20) (rb : Reg) (s : State) :
    exec (.minF16x2Abs c rd imm rb) s = atom32 (.minF16x2Abs c rd imm rb) (fun m b _ => onHalves fmin16 m b) s :=
  rfl

theorem exec_minF16x2Sp (c : Common) (ps : PredReg) (rd ra rb : Reg) (s : State) :
    exec (.minF16x2Sp c ps rd ra rb) s = atom32 (.minF16x2Sp c ps rd ra rb) (fun m b _ => onHalves fmin16 m b) s :=
  rfl

theorem exec_maxU32Ri (c : Common) (rd ra : Reg) (imm : BitVec 20) (rb : Reg) (s : State) :
    exec (.maxU32Ri c rd ra imm rb) s = atom32 (.maxU32Ri c rd ra imm rb) (fun m b _ => aluMaxU m b) s :=
  rfl

theorem exec_maxU32Abs (c : Common) (rd : Reg) (imm : BitVec 20) (rb : Reg) (s : State) :
    exec (.maxU32Abs c rd imm rb) s = atom32 (.maxU32Abs c rd imm rb) (fun m b _ => aluMaxU m b) s :=
  rfl

theorem exec_maxU32Sp (c : Common) (ps : PredReg) (rd ra rb : Reg) (s : State) :
    exec (.maxU32Sp c ps rd ra rb) s = atom32 (.maxU32Sp c ps rd ra rb) (fun m b _ => aluMaxU m b) s :=
  rfl

theorem exec_maxS32Ri (c : Common) (rd ra : Reg) (imm : BitVec 20) (rb : Reg) (s : State) :
    exec (.maxS32Ri c rd ra imm rb) s = atom32 (.maxS32Ri c rd ra imm rb) (fun m b _ => aluMaxS m b) s :=
  rfl

theorem exec_maxS32Abs (c : Common) (rd : Reg) (imm : BitVec 20) (rb : Reg) (s : State) :
    exec (.maxS32Abs c rd imm rb) s = atom32 (.maxS32Abs c rd imm rb) (fun m b _ => aluMaxS m b) s :=
  rfl

theorem exec_maxS32Sp (c : Common) (ps : PredReg) (rd ra rb : Reg) (s : State) :
    exec (.maxS32Sp c ps rd ra rb) s = atom32 (.maxS32Sp c ps rd ra rb) (fun m b _ => aluMaxS m b) s :=
  rfl

theorem exec_maxU64Ri (c : Common) (rd ra : Reg) (imm : BitVec 20) (rb : Reg) (s : State) :
    exec (.maxU64Ri c rd ra imm rb) s = atom64 (.maxU64Ri c rd ra imm rb) (fun m b _ => aluMaxU m b) s :=
  rfl

theorem exec_maxU64Abs (c : Common) (rd : Reg) (imm : BitVec 20) (rb : Reg) (s : State) :
    exec (.maxU64Abs c rd imm rb) s = atom64 (.maxU64Abs c rd imm rb) (fun m b _ => aluMaxU m b) s :=
  rfl

theorem exec_maxU64Sp (c : Common) (ps : PredReg) (rd ra rb : Reg) (s : State) :
    exec (.maxU64Sp c ps rd ra rb) s = atom64 (.maxU64Sp c ps rd ra rb) (fun m b _ => aluMaxU m b) s :=
  rfl

theorem exec_maxS64Ri (c : Common) (rd ra : Reg) (imm : BitVec 20) (rb : Reg) (s : State) :
    exec (.maxS64Ri c rd ra imm rb) s = atom64 (.maxS64Ri c rd ra imm rb) (fun m b _ => aluMaxS m b) s :=
  rfl

theorem exec_maxS64Abs (c : Common) (rd : Reg) (imm : BitVec 20) (rb : Reg) (s : State) :
    exec (.maxS64Abs c rd imm rb) s = atom64 (.maxS64Abs c rd imm rb) (fun m b _ => aluMaxS m b) s :=
  rfl

theorem exec_maxS64Sp (c : Common) (ps : PredReg) (rd ra rb : Reg) (s : State) :
    exec (.maxS64Sp c ps rd ra rb) s = atom64 (.maxS64Sp c ps rd ra rb) (fun m b _ => aluMaxS m b) s :=
  rfl

theorem exec_maxF16x2Ri (c : Common) (rd ra : Reg) (imm : BitVec 20) (rb : Reg) (s : State) :
    exec (.maxF16x2Ri c rd ra imm rb) s = atom32 (.maxF16x2Ri c rd ra imm rb) (fun m b _ => onHalves fmax16 m b) s :=
  rfl

theorem exec_maxF16x2Abs (c : Common) (rd : Reg) (imm : BitVec 20) (rb : Reg) (s : State) :
    exec (.maxF16x2Abs c rd imm rb) s = atom32 (.maxF16x2Abs c rd imm rb) (fun m b _ => onHalves fmax16 m b) s :=
  rfl

theorem exec_maxF16x2Sp (c : Common) (ps : PredReg) (rd ra rb : Reg) (s : State) :
    exec (.maxF16x2Sp c ps rd ra rb) s = atom32 (.maxF16x2Sp c ps rd ra rb) (fun m b _ => onHalves fmax16 m b) s :=
  rfl

theorem exec_incU32Ri (c : Common) (rd ra : Reg) (imm : BitVec 20) (rb : Reg) (s : State) :
    exec (.incU32Ri c rd ra imm rb) s = atom32 (.incU32Ri c rd ra imm rb) (fun m b _ => aluInc m b) s :=
  rfl

theorem exec_incU32Abs (c : Common) (rd : Reg) (imm : BitVec 20) (rb : Reg) (s : State) :
    exec (.incU32Abs c rd imm rb) s = atom32 (.incU32Abs c rd imm rb) (fun m b _ => aluInc m b) s :=
  rfl

theorem exec_incU32Sp (c : Common) (ps : PredReg) (rd ra rb : Reg) (s : State) :
    exec (.incU32Sp c ps rd ra rb) s = atom32 (.incU32Sp c ps rd ra rb) (fun m b _ => aluInc m b) s :=
  rfl

theorem exec_decU32Ri (c : Common) (rd ra : Reg) (imm : BitVec 20) (rb : Reg) (s : State) :
    exec (.decU32Ri c rd ra imm rb) s = atom32 (.decU32Ri c rd ra imm rb) (fun m b _ => aluDec m b) s :=
  rfl

theorem exec_decU32Abs (c : Common) (rd : Reg) (imm : BitVec 20) (rb : Reg) (s : State) :
    exec (.decU32Abs c rd imm rb) s = atom32 (.decU32Abs c rd imm rb) (fun m b _ => aluDec m b) s :=
  rfl

theorem exec_decU32Sp (c : Common) (ps : PredReg) (rd ra rb : Reg) (s : State) :
    exec (.decU32Sp c ps rd ra rb) s = atom32 (.decU32Sp c ps rd ra rb) (fun m b _ => aluDec m b) s :=
  rfl

theorem exec_andU32Ri (c : Common) (rd ra : Reg) (imm : BitVec 20) (rb : Reg) (s : State) :
    exec (.andU32Ri c rd ra imm rb) s = atom32 (.andU32Ri c rd ra imm rb) (fun m b _ => aluAnd m b) s :=
  rfl

theorem exec_andU32Abs (c : Common) (rd : Reg) (imm : BitVec 20) (rb : Reg) (s : State) :
    exec (.andU32Abs c rd imm rb) s = atom32 (.andU32Abs c rd imm rb) (fun m b _ => aluAnd m b) s :=
  rfl

theorem exec_andU32Sp (c : Common) (ps : PredReg) (rd ra rb : Reg) (s : State) :
    exec (.andU32Sp c ps rd ra rb) s = atom32 (.andU32Sp c ps rd ra rb) (fun m b _ => aluAnd m b) s :=
  rfl

theorem exec_andS32Ri (c : Common) (rd ra : Reg) (imm : BitVec 20) (rb : Reg) (s : State) :
    exec (.andS32Ri c rd ra imm rb) s = atom32 (.andS32Ri c rd ra imm rb) (fun m b _ => aluAnd m b) s :=
  rfl

theorem exec_andS32Abs (c : Common) (rd : Reg) (imm : BitVec 20) (rb : Reg) (s : State) :
    exec (.andS32Abs c rd imm rb) s = atom32 (.andS32Abs c rd imm rb) (fun m b _ => aluAnd m b) s :=
  rfl

theorem exec_andS32Sp (c : Common) (ps : PredReg) (rd ra rb : Reg) (s : State) :
    exec (.andS32Sp c ps rd ra rb) s = atom32 (.andS32Sp c ps rd ra rb) (fun m b _ => aluAnd m b) s :=
  rfl

theorem exec_andU64Ri (c : Common) (rd ra : Reg) (imm : BitVec 20) (rb : Reg) (s : State) :
    exec (.andU64Ri c rd ra imm rb) s = atom64 (.andU64Ri c rd ra imm rb) (fun m b _ => aluAnd m b) s :=
  rfl

theorem exec_andU64Abs (c : Common) (rd : Reg) (imm : BitVec 20) (rb : Reg) (s : State) :
    exec (.andU64Abs c rd imm rb) s = atom64 (.andU64Abs c rd imm rb) (fun m b _ => aluAnd m b) s :=
  rfl

theorem exec_andU64Sp (c : Common) (ps : PredReg) (rd ra rb : Reg) (s : State) :
    exec (.andU64Sp c ps rd ra rb) s = atom64 (.andU64Sp c ps rd ra rb) (fun m b _ => aluAnd m b) s :=
  rfl

theorem exec_orU32Ri (c : Common) (rd ra : Reg) (imm : BitVec 20) (rb : Reg) (s : State) :
    exec (.orU32Ri c rd ra imm rb) s = atom32 (.orU32Ri c rd ra imm rb) (fun m b _ => aluOr m b) s :=
  rfl

theorem exec_orU32Abs (c : Common) (rd : Reg) (imm : BitVec 20) (rb : Reg) (s : State) :
    exec (.orU32Abs c rd imm rb) s = atom32 (.orU32Abs c rd imm rb) (fun m b _ => aluOr m b) s :=
  rfl

theorem exec_orU32Sp (c : Common) (ps : PredReg) (rd ra rb : Reg) (s : State) :
    exec (.orU32Sp c ps rd ra rb) s = atom32 (.orU32Sp c ps rd ra rb) (fun m b _ => aluOr m b) s :=
  rfl

theorem exec_orS32Ri (c : Common) (rd ra : Reg) (imm : BitVec 20) (rb : Reg) (s : State) :
    exec (.orS32Ri c rd ra imm rb) s = atom32 (.orS32Ri c rd ra imm rb) (fun m b _ => aluOr m b) s :=
  rfl

theorem exec_orS32Abs (c : Common) (rd : Reg) (imm : BitVec 20) (rb : Reg) (s : State) :
    exec (.orS32Abs c rd imm rb) s = atom32 (.orS32Abs c rd imm rb) (fun m b _ => aluOr m b) s :=
  rfl

theorem exec_orS32Sp (c : Common) (ps : PredReg) (rd ra rb : Reg) (s : State) :
    exec (.orS32Sp c ps rd ra rb) s = atom32 (.orS32Sp c ps rd ra rb) (fun m b _ => aluOr m b) s :=
  rfl

theorem exec_orU64Ri (c : Common) (rd ra : Reg) (imm : BitVec 20) (rb : Reg) (s : State) :
    exec (.orU64Ri c rd ra imm rb) s = atom64 (.orU64Ri c rd ra imm rb) (fun m b _ => aluOr m b) s :=
  rfl

theorem exec_orU64Abs (c : Common) (rd : Reg) (imm : BitVec 20) (rb : Reg) (s : State) :
    exec (.orU64Abs c rd imm rb) s = atom64 (.orU64Abs c rd imm rb) (fun m b _ => aluOr m b) s :=
  rfl

theorem exec_orU64Sp (c : Common) (ps : PredReg) (rd ra rb : Reg) (s : State) :
    exec (.orU64Sp c ps rd ra rb) s = atom64 (.orU64Sp c ps rd ra rb) (fun m b _ => aluOr m b) s :=
  rfl

theorem exec_xorU32Ri (c : Common) (rd ra : Reg) (imm : BitVec 20) (rb : Reg) (s : State) :
    exec (.xorU32Ri c rd ra imm rb) s = atom32 (.xorU32Ri c rd ra imm rb) (fun m b _ => aluXor m b) s :=
  rfl

theorem exec_xorU32Abs (c : Common) (rd : Reg) (imm : BitVec 20) (rb : Reg) (s : State) :
    exec (.xorU32Abs c rd imm rb) s = atom32 (.xorU32Abs c rd imm rb) (fun m b _ => aluXor m b) s :=
  rfl

theorem exec_xorU32Sp (c : Common) (ps : PredReg) (rd ra rb : Reg) (s : State) :
    exec (.xorU32Sp c ps rd ra rb) s = atom32 (.xorU32Sp c ps rd ra rb) (fun m b _ => aluXor m b) s :=
  rfl

theorem exec_xorS32Ri (c : Common) (rd ra : Reg) (imm : BitVec 20) (rb : Reg) (s : State) :
    exec (.xorS32Ri c rd ra imm rb) s = atom32 (.xorS32Ri c rd ra imm rb) (fun m b _ => aluXor m b) s :=
  rfl

theorem exec_xorS32Abs (c : Common) (rd : Reg) (imm : BitVec 20) (rb : Reg) (s : State) :
    exec (.xorS32Abs c rd imm rb) s = atom32 (.xorS32Abs c rd imm rb) (fun m b _ => aluXor m b) s :=
  rfl

theorem exec_xorS32Sp (c : Common) (ps : PredReg) (rd ra rb : Reg) (s : State) :
    exec (.xorS32Sp c ps rd ra rb) s = atom32 (.xorS32Sp c ps rd ra rb) (fun m b _ => aluXor m b) s :=
  rfl

theorem exec_xorU64Ri (c : Common) (rd ra : Reg) (imm : BitVec 20) (rb : Reg) (s : State) :
    exec (.xorU64Ri c rd ra imm rb) s = atom64 (.xorU64Ri c rd ra imm rb) (fun m b _ => aluXor m b) s :=
  rfl

theorem exec_xorU64Abs (c : Common) (rd : Reg) (imm : BitVec 20) (rb : Reg) (s : State) :
    exec (.xorU64Abs c rd imm rb) s = atom64 (.xorU64Abs c rd imm rb) (fun m b _ => aluXor m b) s :=
  rfl

theorem exec_xorU64Sp (c : Common) (ps : PredReg) (rd ra rb : Reg) (s : State) :
    exec (.xorU64Sp c ps rd ra rb) s = atom64 (.xorU64Sp c ps rd ra rb) (fun m b _ => aluXor m b) s :=
  rfl

theorem exec_exchU32Ri (c : Common) (rd ra : Reg) (imm : BitVec 20) (rb : Reg) (s : State) :
    exec (.exchU32Ri c rd ra imm rb) s = atom32 (.exchU32Ri c rd ra imm rb) (fun _ b _ => b) s :=
  rfl

theorem exec_exchU32Abs (c : Common) (rd : Reg) (imm : BitVec 20) (rb : Reg) (s : State) :
    exec (.exchU32Abs c rd imm rb) s = atom32 (.exchU32Abs c rd imm rb) (fun _ b _ => b) s :=
  rfl

theorem exec_exchU32Sp (c : Common) (ps : PredReg) (rd ra rb : Reg) (s : State) :
    exec (.exchU32Sp c ps rd ra rb) s = atom32 (.exchU32Sp c ps rd ra rb) (fun _ b _ => b) s :=
  rfl

theorem exec_exchS32Ri (c : Common) (rd ra : Reg) (imm : BitVec 20) (rb : Reg) (s : State) :
    exec (.exchS32Ri c rd ra imm rb) s = atom32 (.exchS32Ri c rd ra imm rb) (fun _ b _ => b) s :=
  rfl

theorem exec_exchS32Abs (c : Common) (rd : Reg) (imm : BitVec 20) (rb : Reg) (s : State) :
    exec (.exchS32Abs c rd imm rb) s = atom32 (.exchS32Abs c rd imm rb) (fun _ b _ => b) s :=
  rfl

theorem exec_exchS32Sp (c : Common) (ps : PredReg) (rd ra rb : Reg) (s : State) :
    exec (.exchS32Sp c ps rd ra rb) s = atom32 (.exchS32Sp c ps rd ra rb) (fun _ b _ => b) s :=
  rfl

theorem exec_exchU64Ri (c : Common) (rd ra : Reg) (imm : BitVec 20) (rb : Reg) (s : State) :
    exec (.exchU64Ri c rd ra imm rb) s = atom64 (.exchU64Ri c rd ra imm rb) (fun _ b _ => b) s :=
  rfl

theorem exec_exchU64Abs (c : Common) (rd : Reg) (imm : BitVec 20) (rb : Reg) (s : State) :
    exec (.exchU64Abs c rd imm rb) s = atom64 (.exchU64Abs c rd imm rb) (fun _ b _ => b) s :=
  rfl

theorem exec_exchU64Sp (c : Common) (ps : PredReg) (rd ra rb : Reg) (s : State) :
    exec (.exchU64Sp c ps rd ra rb) s = atom64 (.exchU64Sp c ps rd ra rb) (fun _ b _ => b) s :=
  rfl

theorem exec_safeAddU64Ri (c : Common) (rd ra : Reg) (imm : BitVec 20) (rb : Reg) (s : State) :
    exec (.safeAddU64Ri c rd ra imm rb) s = execChecked (Instr.record (.safeAddU64Ri c rd ra imm rb)) s fun _ _ => .refused .safeAddFormula :=
  Eq.trans (b := execSafeAddU64Ri c rd ra imm rb s) rfl rfl

theorem exec_safeAddU64Abs (c : Common) (rd : Reg) (imm : BitVec 20) (rb : Reg) (s : State) :
    exec (.safeAddU64Abs c rd imm rb) s = execChecked (Instr.record (.safeAddU64Abs c rd imm rb)) s fun _ _ => .refused .safeAddFormula :=
  Eq.trans (b := execSafeAddU64Abs c rd imm rb s) rfl rfl

theorem exec_safeAddU64Sp (c : Common) (ps : PredReg) (rd ra rb : Reg) (s : State) :
    exec (.safeAddU64Sp c ps rd ra rb) s = execChecked (Instr.record (.safeAddU64Sp c ps rd ra rb)) s fun _ _ => .refused .safeAddFormula :=
  Eq.trans (b := execSafeAddU64Sp c ps rd ra rb s) rfl rfl

theorem exec_casU32Ri (c : Common) (rd ra : Reg) (imm : BitVec 20) (rb rc : Reg) (s : State) :
    exec (.casU32Ri c rd ra imm rb rc) s = atom32 (.casU32Ri c rd ra imm rb rc) aluCas s :=
  rfl

theorem exec_casU32Abs (c : Common) (rd : Reg) (imm : BitVec 20) (rb rc : Reg) (s : State) :
    exec (.casU32Abs c rd imm rb rc) s = atom32 (.casU32Abs c rd imm rb rc) aluCas s :=
  rfl

theorem exec_casU32Sp (c : Common) (ps : PredReg) (rd ra rb rc : Reg) (s : State) :
    exec (.casU32Sp c ps rd ra rb rc) s = atom32 (.casU32Sp c ps rd ra rb rc) aluCas s :=
  rfl

theorem exec_casS32Ri (c : Common) (rd ra : Reg) (imm : BitVec 20) (rb rc : Reg) (s : State) :
    exec (.casS32Ri c rd ra imm rb rc) s = atom32 (.casS32Ri c rd ra imm rb rc) aluCas s :=
  rfl

theorem exec_casS32Abs (c : Common) (rd : Reg) (imm : BitVec 20) (rb rc : Reg) (s : State) :
    exec (.casS32Abs c rd imm rb rc) s = atom32 (.casS32Abs c rd imm rb rc) aluCas s :=
  rfl

theorem exec_casS32Sp (c : Common) (ps : PredReg) (rd ra rb rc : Reg) (s : State) :
    exec (.casS32Sp c ps rd ra rb rc) s = atom32 (.casS32Sp c ps rd ra rb rc) aluCas s :=
  rfl

theorem exec_casU64Ri (c : Common) (rd ra : Reg) (imm : BitVec 20) (rb rc : Reg) (s : State) :
    exec (.casU64Ri c rd ra imm rb rc) s = atom64 (.casU64Ri c rd ra imm rb rc) aluCas s :=
  rfl

theorem exec_casU64Abs (c : Common) (rd : Reg) (imm : BitVec 20) (rb rc : Reg) (s : State) :
    exec (.casU64Abs c rd imm rb rc) s = atom64 (.casU64Abs c rd imm rb rc) aluCas s :=
  rfl

theorem exec_casU64Sp (c : Common) (ps : PredReg) (rd ra rb rc : Reg) (s : State) :
    exec (.casU64Sp c ps rd ra rb rc) s = atom64 (.casU64Sp c ps rd ra rb rc) aluCas s :=
  rfl

/-- The shape of every meaning. -/
theorem exec_form (i : Instr) :
    (i.record.sz.bytes = 4 ∧ ∃ f, ∀ s, exec i s = atom32 i f s) ∨
      (i.record.sz.bytes = 8 ∧ ∃ f, ∀ s, exec i s = atom64 i f s) ∨
      (i.record.op = .safeAdd ∧ ∀ s, exec i s = execChecked i.record s fun _ _ => .refused .safeAddFormula) := by
  cases i with
  | addU32Ri c rd ra imm rb => exact .inl ⟨rfl, _, fun _ => exec_addU32Ri ..⟩
  | addU32Abs c rd imm rb => exact .inl ⟨rfl, _, fun _ => exec_addU32Abs ..⟩
  | addU32Sp c ps rd ra rb => exact .inl ⟨rfl, _, fun _ => exec_addU32Sp ..⟩
  | addS32Ri c rd ra imm rb => exact .inl ⟨rfl, _, fun _ => exec_addS32Ri ..⟩
  | addS32Abs c rd imm rb => exact .inl ⟨rfl, _, fun _ => exec_addS32Abs ..⟩
  | addS32Sp c ps rd ra rb => exact .inl ⟨rfl, _, fun _ => exec_addS32Sp ..⟩
  | addU64Ri c rd ra imm rb => exact .inr (.inl ⟨rfl, _, fun _ => exec_addU64Ri ..⟩)
  | addU64Abs c rd imm rb => exact .inr (.inl ⟨rfl, _, fun _ => exec_addU64Abs ..⟩)
  | addU64Sp c ps rd ra rb => exact .inr (.inl ⟨rfl, _, fun _ => exec_addU64Sp ..⟩)
  | addF32Ri c rd ra imm rb => exact .inl ⟨rfl, _, fun _ => exec_addF32Ri ..⟩
  | addF32Abs c rd imm rb => exact .inl ⟨rfl, _, fun _ => exec_addF32Abs ..⟩
  | addF32Sp c ps rd ra rb => exact .inl ⟨rfl, _, fun _ => exec_addF32Sp ..⟩
  | addF16x2Ri c rd ra imm rb => exact .inl ⟨rfl, _, fun _ => exec_addF16x2Ri ..⟩
  | addF16x2Abs c rd imm rb => exact .inl ⟨rfl, _, fun _ => exec_addF16x2Abs ..⟩
  | addF16x2Sp c ps rd ra rb => exact .inl ⟨rfl, _, fun _ => exec_addF16x2Sp ..⟩
  | addF64Ri c rd ra imm rb => exact .inr (.inl ⟨rfl, _, fun _ => exec_addF64Ri ..⟩)
  | addF64Abs c rd imm rb => exact .inr (.inl ⟨rfl, _, fun _ => exec_addF64Abs ..⟩)
  | addF64Sp c ps rd ra rb => exact .inr (.inl ⟨rfl, _, fun _ => exec_addF64Sp ..⟩)
  | minU32Ri c rd ra imm rb => exact .inl ⟨rfl, _, fun _ => exec_minU32Ri ..⟩
  | minU32Abs c rd imm rb => exact .inl ⟨rfl, _, fun _ => exec_minU32Abs ..⟩
  | minU32Sp c ps rd ra rb => exact .inl ⟨rfl, _, fun _ => exec_minU32Sp ..⟩
  | minS32Ri c rd ra imm rb => exact .inl ⟨rfl, _, fun _ => exec_minS32Ri ..⟩
  | minS32Abs c rd imm rb => exact .inl ⟨rfl, _, fun _ => exec_minS32Abs ..⟩
  | minS32Sp c ps rd ra rb => exact .inl ⟨rfl, _, fun _ => exec_minS32Sp ..⟩
  | minU64Ri c rd ra imm rb => exact .inr (.inl ⟨rfl, _, fun _ => exec_minU64Ri ..⟩)
  | minU64Abs c rd imm rb => exact .inr (.inl ⟨rfl, _, fun _ => exec_minU64Abs ..⟩)
  | minU64Sp c ps rd ra rb => exact .inr (.inl ⟨rfl, _, fun _ => exec_minU64Sp ..⟩)
  | minS64Ri c rd ra imm rb => exact .inr (.inl ⟨rfl, _, fun _ => exec_minS64Ri ..⟩)
  | minS64Abs c rd imm rb => exact .inr (.inl ⟨rfl, _, fun _ => exec_minS64Abs ..⟩)
  | minS64Sp c ps rd ra rb => exact .inr (.inl ⟨rfl, _, fun _ => exec_minS64Sp ..⟩)
  | minF16x2Ri c rd ra imm rb => exact .inl ⟨rfl, _, fun _ => exec_minF16x2Ri ..⟩
  | minF16x2Abs c rd imm rb => exact .inl ⟨rfl, _, fun _ => exec_minF16x2Abs ..⟩
  | minF16x2Sp c ps rd ra rb => exact .inl ⟨rfl, _, fun _ => exec_minF16x2Sp ..⟩
  | maxU32Ri c rd ra imm rb => exact .inl ⟨rfl, _, fun _ => exec_maxU32Ri ..⟩
  | maxU32Abs c rd imm rb => exact .inl ⟨rfl, _, fun _ => exec_maxU32Abs ..⟩
  | maxU32Sp c ps rd ra rb => exact .inl ⟨rfl, _, fun _ => exec_maxU32Sp ..⟩
  | maxS32Ri c rd ra imm rb => exact .inl ⟨rfl, _, fun _ => exec_maxS32Ri ..⟩
  | maxS32Abs c rd imm rb => exact .inl ⟨rfl, _, fun _ => exec_maxS32Abs ..⟩
  | maxS32Sp c ps rd ra rb => exact .inl ⟨rfl, _, fun _ => exec_maxS32Sp ..⟩
  | maxU64Ri c rd ra imm rb => exact .inr (.inl ⟨rfl, _, fun _ => exec_maxU64Ri ..⟩)
  | maxU64Abs c rd imm rb => exact .inr (.inl ⟨rfl, _, fun _ => exec_maxU64Abs ..⟩)
  | maxU64Sp c ps rd ra rb => exact .inr (.inl ⟨rfl, _, fun _ => exec_maxU64Sp ..⟩)
  | maxS64Ri c rd ra imm rb => exact .inr (.inl ⟨rfl, _, fun _ => exec_maxS64Ri ..⟩)
  | maxS64Abs c rd imm rb => exact .inr (.inl ⟨rfl, _, fun _ => exec_maxS64Abs ..⟩)
  | maxS64Sp c ps rd ra rb => exact .inr (.inl ⟨rfl, _, fun _ => exec_maxS64Sp ..⟩)
  | maxF16x2Ri c rd ra imm rb => exact .inl ⟨rfl, _, fun _ => exec_maxF16x2Ri ..⟩
  | maxF16x2Abs c rd imm rb => exact .inl ⟨rfl, _, fun _ => exec_maxF16x2Abs ..⟩
  | maxF16x2Sp c ps rd ra rb => exact .inl ⟨rfl, _, fun _ => exec_maxF16x2Sp ..⟩
  | incU32Ri c rd ra imm rb => exact .inl ⟨rfl, _, fun _ => exec_incU32Ri ..⟩
  | incU32Abs c rd imm rb => exact .inl ⟨rfl, _, fun _ => exec_incU32Abs ..⟩
  | incU32Sp c ps rd ra rb => exact .inl ⟨rfl, _, fun _ => exec_incU32Sp ..⟩
  | decU32Ri c rd ra imm rb => exact .inl ⟨rfl, _, fun _ => exec_decU32Ri ..⟩
  | decU32Abs c rd imm rb => exact .inl ⟨rfl, _, fun _ => exec_decU32Abs ..⟩
  | decU32Sp c ps rd ra rb => exact .inl ⟨rfl, _, fun _ => exec_decU32Sp ..⟩
  | andU32Ri c rd ra imm rb => exact .inl ⟨rfl, _, fun _ => exec_andU32Ri ..⟩
  | andU32Abs c rd imm rb => exact .inl ⟨rfl, _, fun _ => exec_andU32Abs ..⟩
  | andU32Sp c ps rd ra rb => exact .inl ⟨rfl, _, fun _ => exec_andU32Sp ..⟩
  | andS32Ri c rd ra imm rb => exact .inl ⟨rfl, _, fun _ => exec_andS32Ri ..⟩
  | andS32Abs c rd imm rb => exact .inl ⟨rfl, _, fun _ => exec_andS32Abs ..⟩
  | andS32Sp c ps rd ra rb => exact .inl ⟨rfl, _, fun _ => exec_andS32Sp ..⟩
  | andU64Ri c rd ra imm rb => exact .inr (.inl ⟨rfl, _, fun _ => exec_andU64Ri ..⟩)
  | andU64Abs c rd imm rb => exact .inr (.inl ⟨rfl, _, fun _ => exec_andU64Abs ..⟩)
  | andU64Sp c ps rd ra rb => exact .inr (.inl ⟨rfl, _, fun _ => exec_andU64Sp ..⟩)
  | orU32Ri c rd ra imm rb => exact .inl ⟨rfl, _, fun _ => exec_orU32Ri ..⟩
  | orU32Abs c rd imm rb => exact .inl ⟨rfl, _, fun _ => exec_orU32Abs ..⟩
  | orU32Sp c ps rd ra rb => exact .inl ⟨rfl, _, fun _ => exec_orU32Sp ..⟩
  | orS32Ri c rd ra imm rb => exact .inl ⟨rfl, _, fun _ => exec_orS32Ri ..⟩
  | orS32Abs c rd imm rb => exact .inl ⟨rfl, _, fun _ => exec_orS32Abs ..⟩
  | orS32Sp c ps rd ra rb => exact .inl ⟨rfl, _, fun _ => exec_orS32Sp ..⟩
  | orU64Ri c rd ra imm rb => exact .inr (.inl ⟨rfl, _, fun _ => exec_orU64Ri ..⟩)
  | orU64Abs c rd imm rb => exact .inr (.inl ⟨rfl, _, fun _ => exec_orU64Abs ..⟩)
  | orU64Sp c ps rd ra rb => exact .inr (.inl ⟨rfl, _, fun _ => exec_orU64Sp ..⟩)
  | xorU32Ri c rd ra imm rb => exact .inl ⟨rfl, _, fun _ => exec_xorU32Ri ..⟩
  | xorU32Abs c rd imm rb => exact .inl ⟨rfl, _, fun _ => exec_xorU32Abs ..⟩
  | xorU32Sp c ps rd ra rb => exact .inl ⟨rfl, _, fun _ => exec_xorU32Sp ..⟩
  | xorS32Ri c rd ra imm rb => exact .inl ⟨rfl, _, fun _ => exec_xorS32Ri ..⟩
  | xorS32Abs c rd imm rb => exact .inl ⟨rfl, _, fun _ => exec_xorS32Abs ..⟩
  | xorS32Sp c ps rd ra rb => exact .inl ⟨rfl, _, fun _ => exec_xorS32Sp ..⟩
  | xorU64Ri c rd ra imm rb => exact .inr (.inl ⟨rfl, _, fun _ => exec_xorU64Ri ..⟩)
  | xorU64Abs c rd imm rb => exact .inr (.inl ⟨rfl, _, fun _ => exec_xorU64Abs ..⟩)
  | xorU64Sp c ps rd ra rb => exact .inr (.inl ⟨rfl, _, fun _ => exec_xorU64Sp ..⟩)
  | exchU32Ri c rd ra imm rb => exact .inl ⟨rfl, _, fun _ => exec_exchU32Ri ..⟩
  | exchU32Abs c rd imm rb => exact .inl ⟨rfl, _, fun _ => exec_exchU32Abs ..⟩
  | exchU32Sp c ps rd ra rb => exact .inl ⟨rfl, _, fun _ => exec_exchU32Sp ..⟩
  | exchS32Ri c rd ra imm rb => exact .inl ⟨rfl, _, fun _ => exec_exchS32Ri ..⟩
  | exchS32Abs c rd imm rb => exact .inl ⟨rfl, _, fun _ => exec_exchS32Abs ..⟩
  | exchS32Sp c ps rd ra rb => exact .inl ⟨rfl, _, fun _ => exec_exchS32Sp ..⟩
  | exchU64Ri c rd ra imm rb => exact .inr (.inl ⟨rfl, _, fun _ => exec_exchU64Ri ..⟩)
  | exchU64Abs c rd imm rb => exact .inr (.inl ⟨rfl, _, fun _ => exec_exchU64Abs ..⟩)
  | exchU64Sp c ps rd ra rb => exact .inr (.inl ⟨rfl, _, fun _ => exec_exchU64Sp ..⟩)
  | safeAddU64Ri c rd ra imm rb => exact .inr (.inr ⟨rfl, fun _ => exec_safeAddU64Ri ..⟩)
  | safeAddU64Abs c rd imm rb => exact .inr (.inr ⟨rfl, fun _ => exec_safeAddU64Abs ..⟩)
  | safeAddU64Sp c ps rd ra rb => exact .inr (.inr ⟨rfl, fun _ => exec_safeAddU64Sp ..⟩)
  | casU32Ri c rd ra imm rb rc => exact .inl ⟨rfl, _, fun _ => exec_casU32Ri ..⟩
  | casU32Abs c rd imm rb rc => exact .inl ⟨rfl, _, fun _ => exec_casU32Abs ..⟩
  | casU32Sp c ps rd ra rb rc => exact .inl ⟨rfl, _, fun _ => exec_casU32Sp ..⟩
  | casS32Ri c rd ra imm rb rc => exact .inl ⟨rfl, _, fun _ => exec_casS32Ri ..⟩
  | casS32Abs c rd imm rb rc => exact .inl ⟨rfl, _, fun _ => exec_casS32Abs ..⟩
  | casS32Sp c ps rd ra rb rc => exact .inl ⟨rfl, _, fun _ => exec_casS32Sp ..⟩
  | casU64Ri c rd ra imm rb rc => exact .inr (.inl ⟨rfl, _, fun _ => exec_casU64Ri ..⟩)
  | casU64Abs c rd imm rb rc => exact .inr (.inl ⟨rfl, _, fun _ => exec_casU64Abs ..⟩)
  | casU64Sp c ps rd ra rb rc => exact .inr (.inl ⟨rfl, _, fun _ => exec_casU64Sp ..⟩)

/-- All that a next state of an instruction can be: the pc advanced, an error raised, a 4-byte or an 8-byte event performed. -/
theorem exec_next (h : exec i s = .next s') :
    i.wf s.launch.numGpr s.launch.spa = true ∧ ∃ th, s.thread = some th ∧
      ((active s.launch th i.record = false ∧ s' = s.setThread (advancePc s.launch th)) ∨
       (active s.launch th i.record = true ∧ ∃ e es,
          applicableErrors s.launch (effectiveAddress i.record th.regs) i.record.sz.bytes = e :: es ∧
          s' = raiseError s th e es (effectiveAddress i.record th.regs)) ∨
       (Ready i s th ∧
          ((i.record.sz.bytes = 4 ∧ ∃ f, s' = perform32 i.record f s th (effectiveAddress i.record th.regs)) ∨
           (i.record.sz.bytes = 8 ∧ ∃ f, s' = perform64 i.record f s th (effectiveAddress i.record th.regs))))) := by
  rcases exec_form i with ⟨hb, f, hf⟩ | ⟨hb, f, hf⟩ | ⟨-, hf⟩ <;> rw [hf s] at h
  · obtain ⟨hwf, th, ht, hc⟩ := execChecked_next h
    refine ⟨hwf, th, ht, ?_⟩
    rcases hc with hc | hc | ⟨hr, hc⟩
    · exact .inl hc
    · exact .inr (.inl hc)
    · exact .inr (.inr ⟨hr, .inl ⟨hb, f, by simpa using hc.symm⟩⟩)
  · obtain ⟨hwf, th, ht, hc⟩ := execChecked_next h
    refine ⟨hwf, th, ht, ?_⟩
    rcases hc with hc | hc | ⟨hr, hc⟩
    · exact .inl hc
    · exact .inr (.inl hc)
    · exact .inr (.inr ⟨hr, .inr ⟨hb, f, by simpa using hc.symm⟩⟩)
  · obtain ⟨hwf, th, ht, hc⟩ := execChecked_next h
    refine ⟨hwf, th, ht, ?_⟩
    rcases hc with hc | hc | ⟨hr, hc⟩
    · exact .inl hc
    · exact .inr (.inl hc)
    · cases hc

end Sys2Proof.Machine
end

