-- ==== Sys2Proof/Laws/PerInstr.lean ====
section
/-!
SUPPORT. The per-instruction family `RecordReadsBack`: the record of R75 that an instruction stands for determines it.
-/

namespace Sys2Proof.Laws.RecordReadsBack

/-- The instruction is what its record of R75 stands for, and its operation takes its size (R62, R74). -/
def Statement (i : Instr) : Prop := i.record.toInstr? = some i ∧ legalPair i.record.op i.record.sz = true

theorem addU32Ri (c : Common) (rd ra : Reg) (imm : BitVec 20) (rb : Reg) : Statement (.addU32Ri c rd ra imm rb) := ⟨rfl, rfl⟩
theorem addU32Abs (c : Common) (rd : Reg) (imm : BitVec 20) (rb : Reg) : Statement (.addU32Abs c rd imm rb) := ⟨rfl, rfl⟩
theorem addU32Sp (c : Common) (ps : PredReg) (rd ra rb : Reg) : Statement (.addU32Sp c ps rd ra rb) := ⟨rfl, rfl⟩
theorem addS32Ri (c : Common) (rd ra : Reg) (imm : BitVec 20) (rb : Reg) : Statement (.addS32Ri c rd ra imm rb) := ⟨rfl, rfl⟩
theorem addS32Abs (c : Common) (rd : Reg) (imm : BitVec 20) (rb : Reg) : Statement (.addS32Abs c rd imm rb) := ⟨rfl, rfl⟩
theorem addS32Sp (c : Common) (ps : PredReg) (rd ra rb : Reg) : Statement (.addS32Sp c ps rd ra rb) := ⟨rfl, rfl⟩
theorem addU64Ri (c : Common) (rd ra : Reg) (imm : BitVec 20) (rb : Reg) : Statement (.addU64Ri c rd ra imm rb) := ⟨rfl, rfl⟩
theorem addU64Abs (c : Common) (rd : Reg) (imm : BitVec 20) (rb : Reg) : Statement (.addU64Abs c rd imm rb) := ⟨rfl, rfl⟩
theorem addU64Sp (c : Common) (ps : PredReg) (rd ra rb : Reg) : Statement (.addU64Sp c ps rd ra rb) := ⟨rfl, rfl⟩
theorem addF32Ri (c : Common) (rd ra : Reg) (imm : BitVec 20) (rb : Reg) : Statement (.addF32Ri c rd ra imm rb) := ⟨rfl, rfl⟩
theorem addF32Abs (c : Common) (rd : Reg) (imm : BitVec 20) (rb : Reg) : Statement (.addF32Abs c rd imm rb) := ⟨rfl, rfl⟩
theorem addF32Sp (c : Common) (ps : PredReg) (rd ra rb : Reg) : Statement (.addF32Sp c ps rd ra rb) := ⟨rfl, rfl⟩
theorem addF16x2Ri (c : Common) (rd ra : Reg) (imm : BitVec 20) (rb : Reg) : Statement (.addF16x2Ri c rd ra imm rb) := ⟨rfl, rfl⟩
theorem addF16x2Abs (c : Common) (rd : Reg) (imm : BitVec 20) (rb : Reg) : Statement (.addF16x2Abs c rd imm rb) := ⟨rfl, rfl⟩
theorem addF16x2Sp (c : Common) (ps : PredReg) (rd ra rb : Reg) : Statement (.addF16x2Sp c ps rd ra rb) := ⟨rfl, rfl⟩
theorem addF64Ri (c : Common) (rd ra : Reg) (imm : BitVec 20) (rb : Reg) : Statement (.addF64Ri c rd ra imm rb) := ⟨rfl, rfl⟩
theorem addF64Abs (c : Common) (rd : Reg) (imm : BitVec 20) (rb : Reg) : Statement (.addF64Abs c rd imm rb) := ⟨rfl, rfl⟩
theorem addF64Sp (c : Common) (ps : PredReg) (rd ra rb : Reg) : Statement (.addF64Sp c ps rd ra rb) := ⟨rfl, rfl⟩
theorem minU32Ri (c : Common) (rd ra : Reg) (imm : BitVec 20) (rb : Reg) : Statement (.minU32Ri c rd ra imm rb) := ⟨rfl, rfl⟩
theorem minU32Abs (c : Common) (rd : Reg) (imm : BitVec 20) (rb : Reg) : Statement (.minU32Abs c rd imm rb) := ⟨rfl, rfl⟩
theorem minU32Sp (c : Common) (ps : PredReg) (rd ra rb : Reg) : Statement (.minU32Sp c ps rd ra rb) := ⟨rfl, rfl⟩
theorem minS32Ri (c : Common) (rd ra : Reg) (imm : BitVec 20) (rb : Reg) : Statement (.minS32Ri c rd ra imm rb) := ⟨rfl, rfl⟩
theorem minS32Abs (c : Common) (rd : Reg) (imm : BitVec 20) (rb : Reg) : Statement (.minS32Abs c rd imm rb) := ⟨rfl, rfl⟩
theorem minS32Sp (c : Common) (ps : PredReg) (rd ra rb : Reg) : Statement (.minS32Sp c ps rd ra rb) := ⟨rfl, rfl⟩
theorem minU64Ri (c : Common) (rd ra : Reg) (imm : BitVec 20) (rb : Reg) : Statement (.minU64Ri c rd ra imm rb) := ⟨rfl, rfl⟩
theorem minU64Abs (c : Common) (rd : Reg) (imm : BitVec 20) (rb : Reg) : Statement (.minU64Abs c rd imm rb) := ⟨rfl, rfl⟩
theorem minU64Sp (c : Common) (ps : PredReg) (rd ra rb : Reg) : Statement (.minU64Sp c ps rd ra rb) := ⟨rfl, rfl⟩
theorem minS64Ri (c : Common) (rd ra : Reg) (imm : BitVec 20) (rb : Reg) : Statement (.minS64Ri c rd ra imm rb) := ⟨rfl, rfl⟩
theorem minS64Abs (c : Common) (rd : Reg) (imm : BitVec 20) (rb : Reg) : Statement (.minS64Abs c rd imm rb) := ⟨rfl, rfl⟩
theorem minS64Sp (c : Common) (ps : PredReg) (rd ra rb : Reg) : Statement (.minS64Sp c ps rd ra rb) := ⟨rfl, rfl⟩
theorem minF16x2Ri (c : Common) (rd ra : Reg) (imm : BitVec 20) (rb : Reg) : Statement (.minF16x2Ri c rd ra imm rb) := ⟨rfl, rfl⟩
theorem minF16x2Abs (c : Common) (rd : Reg) (imm : BitVec 20) (rb : Reg) : Statement (.minF16x2Abs c rd imm rb) := ⟨rfl, rfl⟩
theorem minF16x2Sp (c : Common) (ps : PredReg) (rd ra rb : Reg) : Statement (.minF16x2Sp c ps rd ra rb) := ⟨rfl, rfl⟩
theorem maxU32Ri (c : Common) (rd ra : Reg) (imm : BitVec 20) (rb : Reg) : Statement (.maxU32Ri c rd ra imm rb) := ⟨rfl, rfl⟩
theorem maxU32Abs (c : Common) (rd : Reg) (imm : BitVec 20) (rb : Reg) : Statement (.maxU32Abs c rd imm rb) := ⟨rfl, rfl⟩
theorem maxU32Sp (c : Common) (ps : PredReg) (rd ra rb : Reg) : Statement (.maxU32Sp c ps rd ra rb) := ⟨rfl, rfl⟩
theorem maxS32Ri (c : Common) (rd ra : Reg) (imm : BitVec 20) (rb : Reg) : Statement (.maxS32Ri c rd ra imm rb) := ⟨rfl, rfl⟩
theorem maxS32Abs (c : Common) (rd : Reg) (imm : BitVec 20) (rb : Reg) : Statement (.maxS32Abs c rd imm rb) := ⟨rfl, rfl⟩
theorem maxS32Sp (c : Common) (ps : PredReg) (rd ra rb : Reg) : Statement (.maxS32Sp c ps rd ra rb) := ⟨rfl, rfl⟩
theorem maxU64Ri (c : Common) (rd ra : Reg) (imm : BitVec 20) (rb : Reg) : Statement (.maxU64Ri c rd ra imm rb) := ⟨rfl, rfl⟩
theorem maxU64Abs (c : Common) (rd : Reg) (imm : BitVec 20) (rb : Reg) : Statement (.maxU64Abs c rd imm rb) := ⟨rfl, rfl⟩
theorem maxU64Sp (c : Common) (ps : PredReg) (rd ra rb : Reg) : Statement (.maxU64Sp c ps rd ra rb) := ⟨rfl, rfl⟩
theorem maxS64Ri (c : Common) (rd ra : Reg) (imm : BitVec 20) (rb : Reg) : Statement (.maxS64Ri c rd ra imm rb) := ⟨rfl, rfl⟩
theorem maxS64Abs (c : Common) (rd : Reg) (imm : BitVec 20) (rb : Reg) : Statement (.maxS64Abs c rd imm rb) := ⟨rfl, rfl⟩
theorem maxS64Sp (c : Common) (ps : PredReg) (rd ra rb : Reg) : Statement (.maxS64Sp c ps rd ra rb) := ⟨rfl, rfl⟩
theorem maxF16x2Ri (c : Common) (rd ra : Reg) (imm : BitVec 20) (rb : Reg) : Statement (.maxF16x2Ri c rd ra imm rb) := ⟨rfl, rfl⟩
theorem maxF16x2Abs (c : Common) (rd : Reg) (imm : BitVec 20) (rb : Reg) : Statement (.maxF16x2Abs c rd imm rb) := ⟨rfl, rfl⟩
theorem maxF16x2Sp (c : Common) (ps : PredReg) (rd ra rb : Reg) : Statement (.maxF16x2Sp c ps rd ra rb) := ⟨rfl, rfl⟩
theorem incU32Ri (c : Common) (rd ra : Reg) (imm : BitVec 20) (rb : Reg) : Statement (.incU32Ri c rd ra imm rb) := ⟨rfl, rfl⟩
theorem incU32Abs (c : Common) (rd : Reg) (imm : BitVec 20) (rb : Reg) : Statement (.incU32Abs c rd imm rb) := ⟨rfl, rfl⟩
theorem incU32Sp (c : Common) (ps : PredReg) (rd ra rb : Reg) : Statement (.incU32Sp c ps rd ra rb) := ⟨rfl, rfl⟩
theorem decU32Ri (c : Common) (rd ra : Reg) (imm : BitVec 20) (rb : Reg) : Statement (.decU32Ri c rd ra imm rb) := ⟨rfl, rfl⟩
theorem decU32Abs (c : Common) (rd : Reg) (imm : BitVec 20) (rb : Reg) : Statement (.decU32Abs c rd imm rb) := ⟨rfl, rfl⟩
theorem decU32Sp (c : Common) (ps : PredReg) (rd ra rb : Reg) : Statement (.decU32Sp c ps rd ra rb) := ⟨rfl, rfl⟩
theorem andU32Ri (c : Common) (rd ra : Reg) (imm : BitVec 20) (rb : Reg) : Statement (.andU32Ri c rd ra imm rb) := ⟨rfl, rfl⟩
theorem andU32Abs (c : Common) (rd : Reg) (imm : BitVec 20) (rb : Reg) : Statement (.andU32Abs c rd imm rb) := ⟨rfl, rfl⟩
theorem andU32Sp (c : Common) (ps : PredReg) (rd ra rb : Reg) : Statement (.andU32Sp c ps rd ra rb) := ⟨rfl, rfl⟩
theorem andS32Ri (c : Common) (rd ra : Reg) (imm : BitVec 20) (rb : Reg) : Statement (.andS32Ri c rd ra imm rb) := ⟨rfl, rfl⟩
theorem andS32Abs (c : Common) (rd : Reg) (imm : BitVec 20) (rb : Reg) : Statement (.andS32Abs c rd imm rb) := ⟨rfl, rfl⟩
theorem andS32Sp (c : Common) (ps : PredReg) (rd ra rb : Reg) : Statement (.andS32Sp c ps rd ra rb) := ⟨rfl, rfl⟩
theorem andU64Ri (c : Common) (rd ra : Reg) (imm : BitVec 20) (rb : Reg) : Statement (.andU64Ri c rd ra imm rb) := ⟨rfl, rfl⟩
theorem andU64Abs (c : Common) (rd : Reg) (imm : BitVec 20) (rb : Reg) : Statement (.andU64Abs c rd imm rb) := ⟨rfl, rfl⟩
theorem andU64Sp (c : Common) (ps : PredReg) (rd ra rb : Reg) : Statement (.andU64Sp c ps rd ra rb) := ⟨rfl, rfl⟩
theorem orU32Ri (c : Common) (rd ra : Reg) (imm : BitVec 20) (rb : Reg) : Statement (.orU32Ri c rd ra imm rb) := ⟨rfl, rfl⟩
theorem orU32Abs (c : Common) (rd : Reg) (imm : BitVec 20) (rb : Reg) : Statement (.orU32Abs c rd imm rb) := ⟨rfl, rfl⟩
theorem orU32Sp (c : Common) (ps : PredReg) (rd ra rb : Reg) : Statement (.orU32Sp c ps rd ra rb) := ⟨rfl, rfl⟩
theorem orS32Ri (c : Common) (rd ra : Reg) (imm : BitVec 20) (rb : Reg) : Statement (.orS32Ri c rd ra imm rb) := ⟨rfl, rfl⟩
theorem orS32Abs (c : Common) (rd : Reg) (imm : BitVec 20) (rb : Reg) : Statement (.orS32Abs c rd imm rb) := ⟨rfl, rfl⟩
theorem orS32Sp (c : Common) (ps : PredReg) (rd ra rb : Reg) : Statement (.orS32Sp c ps rd ra rb) := ⟨rfl, rfl⟩
theorem orU64Ri (c : Common) (rd ra : Reg) (imm : BitVec 20) (rb : Reg) : Statement (.orU64Ri c rd ra imm rb) := ⟨rfl, rfl⟩
theorem orU64Abs (c : Common) (rd : Reg) (imm : BitVec 20) (rb : Reg) : Statement (.orU64Abs c rd imm rb) := ⟨rfl, rfl⟩
theorem orU64Sp (c : Common) (ps : PredReg) (rd ra rb : Reg) : Statement (.orU64Sp c ps rd ra rb) := ⟨rfl, rfl⟩
theorem xorU32Ri (c : Common) (rd ra : Reg) (imm : BitVec 20) (rb : Reg) : Statement (.xorU32Ri c rd ra imm rb) := ⟨rfl, rfl⟩
theorem xorU32Abs (c : Common) (rd : Reg) (imm : BitVec 20) (rb : Reg) : Statement (.xorU32Abs c rd imm rb) := ⟨rfl, rfl⟩
theorem xorU32Sp (c : Common) (ps : PredReg) (rd ra rb : Reg) : Statement (.xorU32Sp c ps rd ra rb) := ⟨rfl, rfl⟩
theorem xorS32Ri (c : Common) (rd ra : Reg) (imm : BitVec 20) (rb : Reg) : Statement (.xorS32Ri c rd ra imm rb) := ⟨rfl, rfl⟩
theorem xorS32Abs (c : Common) (rd : Reg) (imm : BitVec 20) (rb : Reg) : Statement (.xorS32Abs c rd imm rb) := ⟨rfl, rfl⟩
theorem xorS32Sp (c : Common) (ps : PredReg) (rd ra rb : Reg) : Statement (.xorS32Sp c ps rd ra rb) := ⟨rfl, rfl⟩
theorem xorU64Ri (c : Common) (rd ra : Reg) (imm : BitVec 20) (rb : Reg) : Statement (.xorU64Ri c rd ra imm rb) := ⟨rfl, rfl⟩
theorem xorU64Abs (c : Common) (rd : Reg) (imm : BitVec 20) (rb : Reg) : Statement (.xorU64Abs c rd imm rb) := ⟨rfl, rfl⟩
theorem xorU64Sp (c : Common) (ps : PredReg) (rd ra rb : Reg) : Statement (.xorU64Sp c ps rd ra rb) := ⟨rfl, rfl⟩
theorem exchU32Ri (c : Common) (rd ra : Reg) (imm : BitVec 20) (rb : Reg) : Statement (.exchU32Ri c rd ra imm rb) := ⟨rfl, rfl⟩
theorem exchU32Abs (c : Common) (rd : Reg) (imm : BitVec 20) (rb : Reg) : Statement (.exchU32Abs c rd imm rb) := ⟨rfl, rfl⟩
theorem exchU32Sp (c : Common) (ps : PredReg) (rd ra rb : Reg) : Statement (.exchU32Sp c ps rd ra rb) := ⟨rfl, rfl⟩
theorem exchS32Ri (c : Common) (rd ra : Reg) (imm : BitVec 20) (rb : Reg) : Statement (.exchS32Ri c rd ra imm rb) := ⟨rfl, rfl⟩
theorem exchS32Abs (c : Common) (rd : Reg) (imm : BitVec 20) (rb : Reg) : Statement (.exchS32Abs c rd imm rb) := ⟨rfl, rfl⟩
theorem exchS32Sp (c : Common) (ps : PredReg) (rd ra rb : Reg) : Statement (.exchS32Sp c ps rd ra rb) := ⟨rfl, rfl⟩
theorem exchU64Ri (c : Common) (rd ra : Reg) (imm : BitVec 20) (rb : Reg) : Statement (.exchU64Ri c rd ra imm rb) := ⟨rfl, rfl⟩
theorem exchU64Abs (c : Common) (rd : Reg) (imm : BitVec 20) (rb : Reg) : Statement (.exchU64Abs c rd imm rb) := ⟨rfl, rfl⟩
theorem exchU64Sp (c : Common) (ps : PredReg) (rd ra rb : Reg) : Statement (.exchU64Sp c ps rd ra rb) := ⟨rfl, rfl⟩
theorem safeAddU64Ri (c : Common) (rd ra : Reg) (imm : BitVec 20) (rb : Reg) : Statement (.safeAddU64Ri c rd ra imm rb) := ⟨rfl, rfl⟩
theorem safeAddU64Abs (c : Common) (rd : Reg) (imm : BitVec 20) (rb : Reg) : Statement (.safeAddU64Abs c rd imm rb) := ⟨rfl, rfl⟩
theorem safeAddU64Sp (c : Common) (ps : PredReg) (rd ra rb : Reg) : Statement (.safeAddU64Sp c ps rd ra rb) := ⟨rfl, rfl⟩
theorem casU32Ri (c : Common) (rd ra : Reg) (imm : BitVec 20) (rb rc : Reg) : Statement (.casU32Ri c rd ra imm rb rc) := ⟨rfl, rfl⟩
theorem casU32Abs (c : Common) (rd : Reg) (imm : BitVec 20) (rb rc : Reg) : Statement (.casU32Abs c rd imm rb rc) := ⟨rfl, rfl⟩
theorem casU32Sp (c : Common) (ps : PredReg) (rd ra rb rc : Reg) : Statement (.casU32Sp c ps rd ra rb rc) := ⟨rfl, rfl⟩
theorem casS32Ri (c : Common) (rd ra : Reg) (imm : BitVec 20) (rb rc : Reg) : Statement (.casS32Ri c rd ra imm rb rc) := ⟨rfl, rfl⟩
theorem casS32Abs (c : Common) (rd : Reg) (imm : BitVec 20) (rb rc : Reg) : Statement (.casS32Abs c rd imm rb rc) := ⟨rfl, rfl⟩
theorem casS32Sp (c : Common) (ps : PredReg) (rd ra rb rc : Reg) : Statement (.casS32Sp c ps rd ra rb rc) := ⟨rfl, rfl⟩
theorem casU64Ri (c : Common) (rd ra : Reg) (imm : BitVec 20) (rb rc : Reg) : Statement (.casU64Ri c rd ra imm rb rc) := ⟨rfl, rfl⟩
theorem casU64Abs (c : Common) (rd : Reg) (imm : BitVec 20) (rb rc : Reg) : Statement (.casU64Abs c rd imm rb rc) := ⟨rfl, rfl⟩
theorem casU64Sp (c : Common) (ps : PredReg) (rd ra rb rc : Reg) : Statement (.casU64Sp c ps rd ra rb rc) := ⟨rfl, rfl⟩

end Sys2Proof.Laws.RecordReadsBack
end

