-- ==== Sys2Proof/Laws/Step.lean ====
section
/-!
SUPPORT. What a step of the machine can do, said once: a thread that can step runs the instruction at its pc, writes what that
instruction's event returned when it took effect ahead of its turn, or lets a later event take effect (R38, R172); and
what a thread looks like past instructions whose events have not taken effect.
-/

namespace Sys2Proof.Machine

variable {L : Launch} {v v' : View} {i : Instr} {s s' : State} {th : Thread} {e : Early} {k : Nat}

/-! ### Settling an event that took effect ahead of its turn -/

/-- Writing registers keeps the canonical form. -/
theorem writeRegs_wf (vs : List (Nat × Word)) {regs : Store 32} (h : storeWf regs) : storeWf (writeRegs vs regs) := by
  induction vs generalizing regs with
  | nil => exact h
  | cons p vs ih => exact ih (storePut_wf _ _ h)

/-- A register that is not among those written keeps its value. -/
theorem storeGet_writeRegs_other {vs : List (Nat × Word)} {a : Nat} (h : ∀ p ∈ vs, p.1 ≠ a) (regs : Store 32) :
    storeGet a (writeRegs vs regs) = storeGet a regs := by
  induction vs generalizing regs with
  | nil => rfl
  | cons p vs ih =>
    have hp : a ≠ p.1 := Ne.symm (h p List.mem_cons_self)
    exact (ih (fun q hq => h q (List.mem_cons_of_mem _ hq)) _).trans (storeGet_put_other hp _ _)

@[simp] theorem settle_regs (L : Launch) (e : Early) (th : Thread) : (settle L e th).regs = writeRegs e.regs th.regs := rfl
@[simp] theorem settle_preds (L : Launch) (e : Early) (th : Thread) : (settle L e th).preds = writePreds e.preds th.preds := rfl
@[simp] theorem settle_pc (L : Launch) (e : Early) (th : Thread) : (settle L e th).pc = th.pc + L.ilen := rfl
@[simp] theorem settle_helper (L : Launch) (e : Early) (th : Thread) : (settle L e th).helper = th.helper := rfl
@[simp] theorem settle_killed (L : Launch) (e : Early) (th : Thread) : (settle L e th).killed = th.killed := rfl
@[simp] theorem settle_fault (L : Launch) (e : Early) (th : Thread) : (settle L e th).fault = th.fault := rfl
@[simp] theorem settle_scoreboards (L : Launch) (e : Early) (th : Thread) : (settle L e th).scoreboards = th.scoreboards := rfl
@[simp] theorem settle_early (L : Launch) (e : Early) (th : Thread) : (settle L e th).early = th.early.erase e := rfl

/-- The event found at a thread's pc is one of its events, and stands at that pc. -/
theorem taken_some (h : th.taken = some e) : e ∈ th.early ∧ e.pc = th.pc :=
  ⟨List.mem_of_find?_eq_some h, by simpa using List.find?_some h⟩

/-! ### Looking ahead -/

/-- An instruction found at a pc is read from the text there, and is well formed. -/
theorem instrAt_some {pc : Nat} :
    instrAt L pc = some i ↔ ∃ t, fetchText L pc = some t ∧ decode t = .ok i ∧ i.wf L.numGpr L.spa = true := by
  unfold instrAt
  cases hf : fetchText L pc with
  | none => simp
  | some t =>
    cases hd : decode t with
    | error why => simp [hd]
    | ok j =>
      by_cases hw : j.wf L.numGpr L.spa = true
      · simp only [hd, hw, if_true, Option.some.injEq, exists_eq_left', Except.ok.injEq]
        constructor
        · rintro rfl
          exact ⟨rfl, hw⟩
        · exact And.left
      · simp only [hd, hw, if_false, Option.some.injEq, exists_eq_left', Except.ok.injEq, reduceCtorEq, false_iff, not_and]
        rintro rfl
        exact hw

/-- All that passing over an instruction can be: its event has taken effect and is settled, the thread does not execute it, or its
destinations, and its access if its address is known, are still to come. -/
theorem passOver_some (h : passOver L v = some v') : ∃ i, instrAt L v.thread.pc = some i ∧
    ((∃ e, v.thread.taken = some e ∧ v' = { v with thread := settle L e v.thread }) ∨
     (v.thread.taken = none ∧ active L v.thread i.record = false ∧ v' = { v with thread := advancePc L v.thread }) ∨
     (v.thread.taken = none ∧ active L v.thread i.record = true ∧ v.knowsAddress i.record = true ∧
        accessAllowed L (effectiveAddress i.record v.thread.regs) i.record.sz.bytes ∧
        v' = v.pend L i.record [(effectiveAddress i.record v.thread.regs, i.record.sz.bytes)]) ∨
     (v.thread.taken = none ∧ active L v.thread i.record = true ∧ v.knowsAddress i.record = false ∧
        v' = v.pend L i.record [])) := by
  unfold passOver at h
  cases hi : instrAt L v.thread.pc with
  | none => simp [hi] at h
  | some i =>
    refine ⟨i, rfl, ?_⟩
    simp only [hi] at h
    cases ht : v.thread.taken with
    | some e => exact .inl ⟨e, rfl, by simpa [ht] using h.symm⟩
    | none =>
      simp only [ht] at h
      cases ha : active L v.thread i.record with
      | false => exact .inr (.inl ⟨rfl, rfl, by simpa [ha] using h.symm⟩)
      | true =>
        simp only [ha, if_true] at h
        cases hk : v.knowsAddress i.record with
        | false => exact .inr (.inr (.inr ⟨rfl, rfl, rfl, by simpa [hk] using h.symm⟩))
        | true =>
          simp only [hk, if_true] at h
          split at h
          · next hc => exact .inr (.inr (.inl ⟨rfl, rfl, rfl, hc, by simpa using h.symm⟩))
          · cases h

/-- What one view shows of a thread and of the instructions passed over, the other shows too: the attributes of the thread are the
same, its registers stay canonical, and whatever was still to come is still to come. -/
structure ViewGrows (v v' : View) : Prop where
  helper : v'.thread.helper = v.thread.helper
  killed : v'.thread.killed = v.thread.killed
  fault : v'.thread.fault = v.thread.fault
  scoreboards : v'.thread.scoreboards = v.thread.scoreboards
  wf : storeWf v.thread.regs → storeWf v'.thread.regs
  regs : ∀ r ∈ v.regs, r ∈ v'.regs
  preds : ∀ p ∈ v.preds, p ∈ v'.preds
  accesses : ∀ a ∈ v.accesses, a ∈ v'.accesses
  early : ∀ e ∈ v'.thread.early, e ∈ v.thread.early

/-- A view shows what it shows. -/
theorem viewGrows_refl (v : View) : ViewGrows v v :=
  ⟨rfl, rfl, rfl, rfl, id, fun _ => id, fun _ => id, fun _ => id, fun _ => id⟩

/-- Views shown one after the other. -/
theorem viewGrows_trans {v'' : View} (h : ViewGrows v v') (h' : ViewGrows v' v'') : ViewGrows v v'' :=
  ⟨h'.helper.trans h.helper, h'.killed.trans h.killed, h'.fault.trans h.fault, h'.scoreboards.trans h.scoreboards,
    h'.wf ∘ h.wf, fun r hr => h'.regs r (h.regs r hr), fun p hp => h'.preds p (h.preds p hp),
    fun a ha => h'.accesses a (h.accesses a ha), fun e he => h.early e (h'.early e he)⟩

/-- Passing over an instruction shows what was shown before. -/
theorem passOver_grows (h : passOver L v = some v') : ViewGrows v v' := by
  obtain ⟨i, -, ⟨e, -, rfl⟩ | ⟨-, -, rfl⟩ | ⟨-, -, -, -, rfl⟩ | ⟨-, -, -, rfl⟩⟩ := passOver_some h
  · exact ⟨rfl, rfl, rfl, rfl, writeRegs_wf _, fun _ => id, fun _ => id, fun _ => id, fun _ he => List.mem_of_mem_erase he⟩
  · exact ⟨rfl, rfl, rfl, rfl, id, fun _ => id, fun _ => id, fun _ => id, fun _ => id⟩
  · exact ⟨rfl, rfl, rfl, rfl, id, fun _ => List.mem_append_right _, fun _ => List.mem_append_right _,
      fun _ => List.mem_append_right _, fun _ => id⟩
  · exact ⟨rfl, rfl, rfl, rfl, id, fun _ => List.mem_append_right _, fun _ => List.mem_append_right _,
      fun _ => List.mem_append_right _, fun _ => id⟩

/-- Passing over instructions shows what was shown before. -/
theorem passMany_grows (h : passMany L k v = some v') : ViewGrows v v' := by
  induction k generalizing v with
  | zero =>
    cases h
    exact viewGrows_refl _
  | succ k ih =>
    simp only [passMany] at h
    split at h
    · cases h
    · next v1 h1 => exact viewGrows_trans (passOver_grows h1) (ih h)

/-- Passing over `j` instructions and then over `k` more. -/
theorem passMany_add (j : Nat) : passMany L (j + k) v = (passMany L j v).bind (passMany L k) := by
  induction j generalizing v with
  | zero => simp [passMany]
  | succ j ih =>
    rw [Nat.succ_add]
    simp only [passMany]
    split
    · rfl
    · exact ih

/-- Two accesses share no byte exactly where one ends before the other begins. -/
theorem overlap_eq_false {a b : DWord} {n m : Nat} :
    overlap a n b m = false ↔ b.toNat + m ≤ a.toNat ∨ a.toNat + n ≤ b.toNat := by
  simp only [overlap, Bool.and_eq_false_iff, decide_eq_false_iff_not]
  omega

/-- What a later instruction finds after one more is passed over. -/
theorem viewAhead_succ : viewAhead L th (k + 1) = (viewAhead L th k).bind (passOver L) := by
  unfold viewAhead
  rw [passMany_add]
  congr 1
  funext v
  simp only [passMany]
  cases passOver L v <;> rfl

/-- An event is admitted exactly where nothing that R38 and R166 name stands in its way. -/
theorem admits_iff {I : AtomInstr} : v.admits L I = true ↔
    active L v.thread I = true ∧ v.thread.taken = none ∧ v.owes I = false ∧
      accessAllowed L (effectiveAddress I v.thread.regs) I.sz.bytes ∧
      (∀ p ∈ v.accesses, overlap p.1 p.2 (effectiveAddress I v.thread.regs) I.sz.bytes = false) ∧
      ∀ e ∈ v.thread.early, e.meets (effectiveAddress I v.thread.regs) I.sz.bytes = false := by
  simp [View.admits, accessAllowed, and_assoc, List.all_eq_true]

/-! ### Steps -/

/-- The instruction at the pc of a thread of which later events took effect: it goes on as `exec` says, raises no error and shares no
byte with one of them. -/
theorem execBehind_next (h : execBehind i s th = .next s') : exec i s = .next s' ∧ ∃ th', s'.thread = some th' ∧
    th'.fault = none ∧ (active s.launch th i.record = true →
      ∀ e ∈ th.early, e.meets (effectiveAddress i.record th.regs) i.record.sz.bytes = false) := by
  unfold execBehind at h
  split at h
  · next s1 he =>
    split at h
    · cases h
    · next th' ht =>
      split at h
      · cases h
      · next hf =>
        split at h
        · cases h
        · next hm =>
          cases h
          exact ⟨he, th', ht, by simpa using hf, by simpa using hm⟩
  · next he => exact absurd h (he s')

/-- What a thread does that goes on at its pc: it writes what the instruction's event returned, or executes the instruction. -/
theorem goOn_next (h : goOn s th = .next s') :
    (∃ e, th.taken = some e ∧ s' = s.setThread (settle s.launch e th)) ∨
    ∃ t i, fetchText s.launch th.pc = some t ∧ decode t = .ok i ∧ th.taken = none ∧ exec i s = .next s' ∧
      (th.early = [] ∨ execBehind i s th = .next s') := by
  unfold goOn at h
  cases hf : fetchText s.launch th.pc with
  | none => simp [hf] at h
  | some t =>
    simp only [hf] at h
    cases hd : decode t with
    | error why => simp [hd] at h
    | ok i =>
      simp only [hd] at h
      cases ht : th.taken with
      | some e => exact .inl ⟨e, rfl, by simpa [ht] using h.symm⟩
      | none =>
        refine .inr ⟨t, i, rfl, hd, rfl, ?_⟩
        simp only [ht] at h
        split at h
        · next he => exact ⟨h, .inl (by simpa using he)⟩
        · exact ⟨(execBehind_next h).1, .inr h⟩

/-- An event that takes effect ahead of its turn is one run of `exec` on the thread that the view shows; of the thread itself only the
list of such events changes. -/
theorem takeEvent_next (h : takeEvent i v s th = .next s') :
    (∃ s1 done, exec i (s.setThread v.thread) = .next s1 ∧ s1.thread = some done ∧
      s' = (s.setMem s1.mem).setThread { th with early := th.early ++ [earlyOf i v.thread done] }) ∨
    goOn s th = .next s' := by
  unfold takeEvent at h
  split at h
  · next s1 he =>
    split at h
    · cases h
    · next done hd => exact .inl ⟨s1, done, he, hd, by simpa using h.symm⟩
  · exact .inr h

/-- What the executing thread does in a step: it goes on at its pc, or an event that may do so takes effect ahead of its turn. -/
theorem act_next {a : Act} (h : act a s = .next s') : ∃ th, s.thread = some th ∧
    (goOn s th = .next s' ∨
      ∃ k v i s1 done, s.launch.ordering = .relaxed ∧ viewAhead s.launch th k = some v ∧
        instrAt s.launch v.thread.pc = some i ∧ v.admits s.launch i.record = true ∧
        exec i (s.setThread v.thread) = .next s1 ∧ s1.thread = some done ∧
        s' = (s.setMem s1.mem).setThread { th with early := th.early ++ [earlyOf i v.thread done] }) := by
  unfold act at h
  split at h
  · cases h
  · next th ht =>
    refine ⟨th, ht, ?_⟩
    split at h
    · exact .inl h
    · exact .inl h
    · next k ho =>
      unfold goAhead at h
      split at h
      · exact .inl h
      · next v hv =>
        split at h
        · exact .inl h
        · next i hi =>
          split at h
          · next ha =>
            rcases takeEvent_next h with ⟨s1, done, he, hd, rfl⟩ | h
            · exact .inr ⟨k, v, i, s1, done, ho, hv, hi, ha, he, hd, rfl⟩
            · exact .inl h
          · exact .inl h

/-- The threads that can step are threads, have not faulted, and have an instruction to execute. -/
theorem mem_runnable {t : Nat} : t ∈ runnable s ↔ ∃ th, s.threads[t]? = some th ∧ canStep s.launch th = true := by
  simp only [runnable, List.mem_filter, List.mem_range, Option.any_eq_true]
  constructor
  · rintro ⟨-, th, h, hc⟩
    exact ⟨th, h, hc⟩
  · rintro ⟨th, h, hc⟩
    exact ⟨(List.getElem?_eq_some_iff.mp h).1, th, h, hc⟩

/-- The thread picked is one of the list. -/
theorem pickThread_mem {ts : List Nat} {t : Nat} (h : pickThread ts k = some t) : t ∈ ts := by
  unfold pickThread at h
  split at h
  · cases h
    simp
  · exact List.mem_of_getElem? h

/-- All that a step can do: one thread that can step goes on at its pc, or an event of it takes effect ahead of its turn. -/
theorem step_next (h : step s = .next s') :
    ∃ t th, steppingThread s = some t ∧ s.threads[t]? = some th ∧ canStep s.launch th = true ∧
      (goOn (runAs s t) th = .next s' ∨
        ∃ k v i s1 done, s.launch.ordering = .relaxed ∧ viewAhead s.launch th k = some v ∧
          instrAt s.launch v.thread.pc = some i ∧ v.admits s.launch i.record = true ∧
          exec i ((runAs s t).setThread v.thread) = .next s1 ∧ s1.thread = some done ∧
          s' = ((runAs s t).setMem s1.mem).setThread { th with early := th.early ++ [earlyOf i v.thread done] }) := by
  unfold step stepThreads at h
  split at h
  · cases h
  · next t hp =>
    obtain ⟨th, hth, hc⟩ := mem_runnable.mp (pickThread_mem hp)
    obtain ⟨th', ht', hcase⟩ := act_next h
    rw [runAs_thread, hth] at ht'
    cases ht'
    exact ⟨t, th, hp, hth, hc, by simpa using hcase⟩

end Sys2Proof.Machine
end

