-- ==== Sys2Proof/Tests/Slice0.lean ====
section
/-!
SUPPORT. Tests, as named theorems. Expected results come from the spec: the texts from its Format lines and examples, the values
from the vectors of 95_test_vectors.md (its section is named beside each), the refusals from R75 and R77. After the tests
stand the witnesses: for each statement with hypotheses, a state and operands that meet them together.
-/

namespace Sys2Proof.Tests

open Sys2Proof.Machine Sys2Proof.Claims

-- One theorem is checked after the other: the kernel evaluations below would else each hold a thread while they wait.
set_option Elab.async false

/-! ### Small states and readings -/

/-- A launch in which the bytes from 0x1000 to 0x1FFF are allocated, the Shared window is 0x5000 to 0x5FFF, and the page at
0x8000 is allocated and sparse. -/
def smallLaunch : Launch :=
  { Launch.reset with allocated := [⟨0x1000, 0x1000⟩, ⟨0x8000, 0x1000⟩], sharedWindow := [⟨0x5000, 0x1000⟩], sparsePages := [8] }

/-- A thread with the registers given and P0 alone true. -/
def smallThread (regs : Store 32) : Thread := { Thread.reset with regs := regs, preds := Thread.reset.preds.set 0 true }

/-- One thread in the small launch. -/
def small (mem : Memory) (regs : Store 32) : State :=
  { State.reset with mem := mem, launch := smallLaunch, threads := [smallThread regs] }

/-- No annotation, no guard, no `.E`. -/
def plain : Common := ⟨Guard.always, false, Opex.none⟩

/-- The word at 0x1000 and R0 after a word `m` stood there, R4 held `b`, R5 held `c` and R2 the address. -/
def run32 (i : Instr) (m b c : Word) : Option (Word × Word) :=
  match exec i (small (write32 [] 0x1000 m) (writeReg (writeReg (writeReg [] (.r 2) 0x1000#32) (.r 4) b) (.r 5) c)) with
  | .next s => s.thread.map fun th => (read32 s.mem 0x1000, readReg th.regs (.r 0))
  | _ => none

/-- The doubleword at 0x1000 and the pair R0 after a doubleword `m` stood there, the pair R4 held `b`, R6 held `c` and R2 the address. -/
def run64 (i : Instr) (m b c : DWord) : Option (DWord × DWord) :=
  match exec i (small (write64 [] 0x1000 m) (writePair (writePair (writeReg [] (.r 2) 0x1000#32) (.r 4) b) (.r 6) c)) with
  | .next s => s.thread.map fun th => (read64 s.mem 0x1000, readPair th.regs (.r 0))
  | _ => none

/-- The three forms of an operation, all at 0x1000. -/
def threeForms (ri : RiForm) (ab : AbsForm) (sp : SpForm) : List Instr :=
  [ri plain (.r 0) (.r 2) 0#20 (.r 4), ab plain (.r 0) 0x1000#20 (.r 4), sp plain .pt (.r 0) (.r 2) (.r 4)]

/-- In each form the word stored is the one given, and R0 receives the word that stood in memory. -/
def stores32 (ri : RiForm) (ab : AbsForm) (sp : SpForm) (vs : List (Word × Word × Word)) : Bool :=
  vs.all fun v => (threeForms ri ab sp).all fun i => run32 i v.1 v.2.1 0#32 == some (v.2.2, v.1)

/-- The same on doublewords. -/
def stores64 (ri : RiForm) (ab : AbsForm) (sp : SpForm) (vs : List (DWord × DWord × DWord)) : Bool :=
  vs.all fun v => (threeForms ri ab sp).all fun i => run64 i v.1 v.2.1 0#64 == some (v.2.2, v.1)

/-! ### Decoding: one statement for each row of the opcode table (R51 to R56), with the instruction it stands for -/

/-- Statements of ADD. -/
def addTexts : List (String × Instr) :=
  [("ATOM.ADD.U32 R0, [R2 + 16], R9;", .addU32Ri ⟨Guard.always, false, Opex.none⟩ (.r 0) (.r 2) 0x00010#20 (.r 9)),
   ("@P0 ATOM.E.ADD.U32 R4, [0x1008], R9 &req_5 &rd0 &wr1 ?2;", .addU32Abs ⟨⟨false, .p 0⟩, true, ⟨5#6, some 0, some 1, some 2⟩⟩ (.r 4) 0x01008#20 (.r 9)),
   ("@!P1 ATOM.ADD P2, R6, [R2], R9;", .addU32Sp ⟨⟨true, .p 1⟩, false, Opex.none⟩ (.p 2) (.r 6) (.r 2) (.r 9)),
   ("@PT ATOM.ADD.S32 R0, [R2], R9 &wr3;", .addS32Ri ⟨Guard.always, false, ⟨0#6, none, some 3, none⟩⟩ (.r 0) (.r 2) 0x00000#20 (.r 9)),
   ("ATOM.E.ADD.S32 R4, [4112], R9;", .addS32Abs ⟨Guard.always, true, Opex.none⟩ (.r 4) 0x01010#20 (.r 9)),
   ("@P0 ATOM.ADD.S32 PT, RZ, [R2], R9;", .addS32Sp ⟨⟨false, .p 0⟩, false, Opex.none⟩ .pt .rz (.r 2) (.r 9)),
   ("@!P1 ATOM.ADD.U64 R0, [R2 - 8], R12 &req_5 &rd0 &wr1 ?2;", .addU64Ri ⟨⟨true, .p 1⟩, false, ⟨5#6, some 0, some 1, some 2⟩⟩ (.r 0) (.r 2) 0xFFFF8#20 (.r 12)),
   ("@PT ATOM.E.ADD.64 R4, [0x1ff8], R12;", .addU64Abs ⟨Guard.always, true, Opex.none⟩ (.r 4) 0x01FF8#20 (.r 12)),
   ("ATOM.ADD.U64 P0, R6, [R2], R12 &wr3;", .addU64Sp ⟨Guard.always, false, ⟨0#6, none, some 3, none⟩⟩ (.p 0) (.r 6) (.r 2) (.r 12)),
   ("@P0 ATOM.ADD.F32.FTZ.RN R0, [R2 + 0x20], R9;", .addF32Ri ⟨⟨false, .p 0⟩, false, Opex.none⟩ (.r 0) (.r 2) 0x00020#20 (.r 9)),
   ("@!P1 ATOM.E.ADD.F32.FTZ.RN R4, [0x1008], R9;", .addF32Abs ⟨⟨true, .p 1⟩, true, Opex.none⟩ (.r 4) 0x01008#20 (.r 9)),
   ("@PT ATOM.ADD.F32.FTZ.RN P6, R6, [R2], R9 &req_5 &rd0 &wr1 ?2;", .addF32Sp ⟨Guard.always, false, ⟨5#6, some 0, some 1, some 2⟩⟩ (.p 6) (.r 6) (.r 2) (.r 9)),
   ("ATOM.ADD.F16x2.RN R0, [R2 + 16], R9;", .addF16x2Ri ⟨Guard.always, false, Opex.none⟩ (.r 0) (.r 2) 0x00010#20 (.r 9)),
   ("@P0 ATOM.E.ADD.F16x2.RN R4, [4112], R9 &wr3;", .addF16x2Abs ⟨⟨false, .p 0⟩, true, ⟨0#6, none, some 3, none⟩⟩ (.r 4) 0x01010#20 (.r 9)),
   ("@!P1 ATOM.ADD.F16x2.RN P2, R6, [R2], R9;", .addF16x2Sp ⟨⟨true, .p 1⟩, false, Opex.none⟩ (.p 2) (.r 6) (.r 2) (.r 9)),
   ("@PT ATOM.ADD.F64.RN R0, [R2], R12;", .addF64Ri ⟨Guard.always, false, Opex.none⟩ (.r 0) (.r 2) 0x00000#20 (.r 12)),
   ("ATOM.E.ADD.F64.RN RZ, [0x1ff8], R12 &req_5 &rd0 &wr1 ?2;", .addF64Abs ⟨Guard.always, true, ⟨5#6, some 0, some 1, some 2⟩⟩ .rz 0x01FF8#20 (.r 12)),
   ("@P0 ATOM.ADD.F64.RN PT, R6, [R2], R12;", .addF64Sp ⟨⟨false, .p 0⟩, false, Opex.none⟩ .pt (.r 6) (.r 2) (.r 12))]

theorem test_decode_add : (addTexts.all fun p => decide (decode (text p.1) = .ok p.2)) = true := by decide +kernel

/-- Statements of MIN. -/
def minTexts : List (String × Instr) :=
  [("@!P1 ATOM.MIN.32 R0, [R2 - 8], R9 &wr3;", .minU32Ri ⟨⟨true, .p 1⟩, false, ⟨0#6, none, some 3, none⟩⟩ (.r 0) (.r 2) 0xFFFF8#20 (.r 9)),
   ("@PT ATOM.E.MIN.U32 R4, [0x1008], R9;", .minU32Abs ⟨Guard.always, true, Opex.none⟩ (.r 4) 0x01008#20 (.r 9)),
   ("ATOM.MIN.U32 P0, R6, [R2], R9;", .minU32Sp ⟨Guard.always, false, Opex.none⟩ (.p 0) (.r 6) (.r 2) (.r 9)),
   ("@P0 ATOM.MIN.S32 R0, [R2 + 0x20], R9 &req_5 &rd0 &wr1 ?2;", .minS32Ri ⟨⟨false, .p 0⟩, false, ⟨5#6, some 0, some 1, some 2⟩⟩ (.r 0) (.r 2) 0x00020#20 (.r 9)),
   ("@!P1 ATOM.E.MIN.S32 R4, [4112], R9;", .minS32Abs ⟨⟨true, .p 1⟩, true, Opex.none⟩ (.r 4) 0x01010#20 (.r 9)),
   ("@PT ATOM.MIN.S32 P6, R6, [R2], R9 &wr3;", .minS32Sp ⟨Guard.always, false, ⟨0#6, none, some 3, none⟩⟩ (.p 6) (.r 6) (.r 2) (.r 9)),
   ("ATOM.MIN.U64 R0, [R2 + 16], R12;", .minU64Ri ⟨Guard.always, false, Opex.none⟩ (.r 0) (.r 2) 0x00010#20 (.r 12)),
   ("@P0 ATOM.E.MIN.U64 R4, [0x1ff8], R12;", .minU64Abs ⟨⟨false, .p 0⟩, true, Opex.none⟩ (.r 4) 0x01FF8#20 (.r 12)),
   ("@!P1 ATOM.MIN.U64 P2, R6, [R2], R12 &req_5 &rd0 &wr1 ?2;", .minU64Sp ⟨⟨true, .p 1⟩, false, ⟨5#6, some 0, some 1, some 2⟩⟩ (.p 2) (.r 6) (.r 2) (.r 12)),
   ("@PT ATOM.MIN.S64 RZ, [R2], R12;", .minS64Ri ⟨Guard.always, false, Opex.none⟩ .rz (.r 2) 0x00000#20 (.r 12)),
   ("ATOM.E.MIN.S64 R4, [0x1008], R12 &wr3;", .minS64Abs ⟨Guard.always, true, ⟨0#6, none, some 3, none⟩⟩ (.r 4) 0x01008#20 (.r 12)),
   ("@P0 ATOM.MIN.S64 PT, R6, [R2], R12;", .minS64Sp ⟨⟨false, .p 0⟩, false, Opex.none⟩ .pt (.r 6) (.r 2) (.r 12)),
   ("@!P1 ATOM.MIN.F16x2.RN R0, [R2 - 8], R9;", .minF16x2Ri ⟨⟨true, .p 1⟩, false, Opex.none⟩ (.r 0) (.r 2) 0xFFFF8#20 (.r 9)),
   ("@PT ATOM.E.MIN.F16x2.RN R4, [4112], R9 &req_5 &rd0 &wr1 ?2;", .minF16x2Abs ⟨Guard.always, true, ⟨5#6, some 0, some 1, some 2⟩⟩ (.r 4) 0x01010#20 (.r 9)),
   ("ATOM.MIN.F16x2.RN P0, R6, [R2], R9;", .minF16x2Sp ⟨Guard.always, false, Opex.none⟩ (.p 0) (.r 6) (.r 2) (.r 9))]

theorem test_decode_min : (minTexts.all fun p => decide (decode (text p.1) = .ok p.2)) = true := by decide +kernel

/-- Statements of MAX. -/
def maxTexts : List (String × Instr) :=
  [("@P0 ATOM.MAX.U32 R0, [R2 + 0x20], R9 &wr3;", .maxU32Ri ⟨⟨false, .p 0⟩, false, ⟨0#6, none, some 3, none⟩⟩ (.r 0) (.r 2) 0x00020#20 (.r 9)),
   ("@!P1 ATOM.E.MAX.U32 R4, [0x1ff8], R9;", .maxU32Abs ⟨⟨true, .p 1⟩, true, Opex.none⟩ (.r 4) 0x01FF8#20 (.r 9)),
   ("@PT ATOM.MAX.U32 P6, R6, [R2], R9;", .maxU32Sp ⟨Guard.always, false, Opex.none⟩ (.p 6) (.r 6) (.r 2) (.r 9)),
   ("ATOM.MAX.S32 R0, [R2 + 16], R9 &req_5 &rd0 &wr1 ?2;", .maxS32Ri ⟨Guard.always, false, ⟨5#6, some 0, some 1, some 2⟩⟩ (.r 0) (.r 2) 0x00010#20 (.r 9)),
   ("@P0 ATOM.E.MAX.S32 R4, [0x1008], R9;", .maxS32Abs ⟨⟨false, .p 0⟩, true, Opex.none⟩ (.r 4) 0x01008#20 (.r 9)),
   ("@!P1 ATOM.MAX.S32 P2, RZ, [R2], R9 &wr3;", .maxS32Sp ⟨⟨true, .p 1⟩, false, ⟨0#6, none, some 3, none⟩⟩ (.p 2) .rz (.r 2) (.r 9)),
   ("@PT ATOM.MAX.U64 R0, [R2], R12;", .maxU64Ri ⟨Guard.always, false, Opex.none⟩ (.r 0) (.r 2) 0x00000#20 (.r 12)),
   ("ATOM.E.MAX.U64 R4, [4112], R12;", .maxU64Abs ⟨Guard.always, true, Opex.none⟩ (.r 4) 0x01010#20 (.r 12)),
   ("@P0 ATOM.MAX.U64 PT, R6, [R2], R12 &req_5 &rd0 &wr1 ?2;", .maxU64Sp ⟨⟨false, .p 0⟩, false, ⟨5#6, some 0, some 1, some 2⟩⟩ .pt (.r 6) (.r 2) (.r 12)),
   ("@!P1 ATOM.MAX.S64 R0, [R2 - 8], R12;", .maxS64Ri ⟨⟨true, .p 1⟩, false, Opex.none⟩ (.r 0) (.r 2) 0xFFFF8#20 (.r 12)),
   ("@PT ATOM.E.MAX.S64 R4, [0x1ff8], R12 &wr3;", .maxS64Abs ⟨Guard.always, true, ⟨0#6, none, some 3, none⟩⟩ (.r 4) 0x01FF8#20 (.r 12)),
   ("ATOM.MAX.S64 P0, R6, [R2], R12;", .maxS64Sp ⟨Guard.always, false, Opex.none⟩ (.p 0) (.r 6) (.r 2) (.r 12)),
   ("@P0 ATOM.MAX.F16x2.RN R0, [R2 + 0x20], R9;", .maxF16x2Ri ⟨⟨false, .p 0⟩, false, Opex.none⟩ (.r 0) (.r 2) 0x00020#20 (.r 9)),
   ("@!P1 ATOM.E.MAX.F16x2.RN R4, [0x1008], R9 &req_5 &rd0 &wr1 ?2;", .maxF16x2Abs ⟨⟨true, .p 1⟩, true, ⟨5#6, some 0, some 1, some 2⟩⟩ (.r 4) 0x01008#20 (.r 9)),
   ("@PT ATOM.MAX.F16x2.RN P6, R6, [R2], R9;", .maxF16x2Sp ⟨Guard.always, false, Opex.none⟩ (.p 6) (.r 6) (.r 2) (.r 9))]

theorem test_decode_max : (maxTexts.all fun p => decide (decode (text p.1) = .ok p.2)) = true := by decide +kernel

/-- Statements of INC. -/
def incTexts : List (String × Instr) :=
  [("ATOM.INC.U32 R0, [R2 + 16], R9 &wr3;", .incU32Ri ⟨Guard.always, false, ⟨0#6, none, some 3, none⟩⟩ (.r 0) (.r 2) 0x00010#20 (.r 9)),
   ("@P0 ATOM.E.INC.U32 RZ, [4112], R9;", .incU32Abs ⟨⟨false, .p 0⟩, true, Opex.none⟩ .rz 0x01010#20 (.r 9)),
   ("@!P1 ATOM.INC.U32 P2, R6, [R2], R9;", .incU32Sp ⟨⟨true, .p 1⟩, false, Opex.none⟩ (.p 2) (.r 6) (.r 2) (.r 9))]

theorem test_decode_inc : (incTexts.all fun p => decide (decode (text p.1) = .ok p.2)) = true := by decide +kernel

/-- Statements of DEC. -/
def decTexts : List (String × Instr) :=
  [("@PT ATOM.DEC R0, [R2], R9 &req_5 &rd0 &wr1 ?2;", .decU32Ri ⟨Guard.always, false, ⟨5#6, some 0, some 1, some 2⟩⟩ (.r 0) (.r 2) 0x00000#20 (.r 9)),
   ("ATOM.E.DEC.U32 R4, [0x1ff8], R9;", .decU32Abs ⟨Guard.always, true, Opex.none⟩ (.r 4) 0x01FF8#20 (.r 9)),
   ("@P0 ATOM.DEC.32 PT, R6, [R2], R9 &wr3;", .decU32Sp ⟨⟨false, .p 0⟩, false, ⟨0#6, none, some 3, none⟩⟩ .pt (.r 6) (.r 2) (.r 9))]

theorem test_decode_dec : (decTexts.all fun p => decide (decode (text p.1) = .ok p.2)) = true := by decide +kernel

/-- Statements of AND. -/
def andTexts : List (String × Instr) :=
  [("@!P1 ATOM.AND.U32 R0, [R2 - 8], R9;", .andU32Ri ⟨⟨true, .p 1⟩, false, Opex.none⟩ (.r 0) (.r 2) 0xFFFF8#20 (.r 9)),
   ("@PT ATOM.E.AND.U32 R4, [0x1008], R9;", .andU32Abs ⟨Guard.always, true, Opex.none⟩ (.r 4) 0x01008#20 (.r 9)),
   ("ATOM.AND.U32 P0, R6, [R2], R9 &req_5 &rd0 &wr1 ?2;", .andU32Sp ⟨Guard.always, false, ⟨5#6, some 0, some 1, some 2⟩⟩ (.p 0) (.r 6) (.r 2) (.r 9)),
   ("@P0 ATOM.AND.S32 R0, [R2 + 0x20], R9;", .andS32Ri ⟨⟨false, .p 0⟩, false, Opex.none⟩ (.r 0) (.r 2) 0x00020#20 (.r 9)),
   ("@!P1 ATOM.E.AND.S32 R4, [4112], R9 &wr3;", .andS32Abs ⟨⟨true, .p 1⟩, true, ⟨0#6, none, some 3, none⟩⟩ (.r 4) 0x01010#20 (.r 9)),
   ("@PT ATOM.AND.S32 P6, R6, [R2], R9;", .andS32Sp ⟨Guard.always, false, Opex.none⟩ (.p 6) (.r 6) (.r 2) (.r 9)),
   ("ATOM.AND.U64 RZ, [R2 + 16], R12;", .andU64Ri ⟨Guard.always, false, Opex.none⟩ .rz (.r 2) 0x00010#20 (.r 12)),
   ("@P0 ATOM.E.AND.U64 R4, [0x1ff8], R12 &req_5 &rd0 &wr1 ?2;", .andU64Abs ⟨⟨false, .p 0⟩, true, ⟨5#6, some 0, some 1, some 2⟩⟩ (.r 4) 0x01FF8#20 (.r 12)),
   ("@!P1 ATOM.AND.64 P2, R6, [R2], R12;", .andU64Sp ⟨⟨true, .p 1⟩, false, Opex.none⟩ (.p 2) (.r 6) (.r 2) (.r 12))]

theorem test_decode_and : (andTexts.all fun p => decide (decode (text p.1) = .ok p.2)) = true := by decide +kernel

/-- Statements of OR. -/
def orTexts : List (String × Instr) :=
  [("@PT ATOM.OR.U32 R0, [R2], R9 &wr3;", .orU32Ri ⟨Guard.always, false, ⟨0#6, none, some 3, none⟩⟩ (.r 0) (.r 2) 0x00000#20 (.r 9)),
   ("ATOM.E.OR.U32 R4, [0x1008], R9;", .orU32Abs ⟨Guard.always, true, Opex.none⟩ (.r 4) 0x01008#20 (.r 9)),
   ("@P0 ATOM.OR PT, R6, [R2], R9;", .orU32Sp ⟨⟨false, .p 0⟩, false, Opex.none⟩ .pt (.r 6) (.r 2) (.r 9)),
   ("@!P1 ATOM.OR.S32 R0, [R2 - 8], R9 &req_5 &rd0 &wr1 ?2;", .orS32Ri ⟨⟨true, .p 1⟩, false, ⟨5#6, some 0, some 1, some 2⟩⟩ (.r 0) (.r 2) 0xFFFF8#20 (.r 9)),
   ("@PT ATOM.E.OR.S32 R4, [4112], R9;", .orS32Abs ⟨Guard.always, true, Opex.none⟩ (.r 4) 0x01010#20 (.r 9)),
   ("ATOM.OR.S32 P0, R6, [R2], R9 &wr3;", .orS32Sp ⟨Guard.always, false, ⟨0#6, none, some 3, none⟩⟩ (.p 0) (.r 6) (.r 2) (.r 9)),
   ("@P0 ATOM.OR.U64 R0, [R2 + 0x20], R12;", .orU64Ri ⟨⟨false, .p 0⟩, false, Opex.none⟩ (.r 0) (.r 2) 0x00020#20 (.r 12)),
   ("@!P1 ATOM.E.OR.U64 R4, [0x1ff8], R12;", .orU64Abs ⟨⟨true, .p 1⟩, true, Opex.none⟩ (.r 4) 0x01FF8#20 (.r 12)),
   ("@PT ATOM.OR.U64 P6, RZ, [R2], R12 &req_5 &rd0 &wr1 ?2;", .orU64Sp ⟨Guard.always, false, ⟨5#6, some 0, some 1, some 2⟩⟩ (.p 6) .rz (.r 2) (.r 12))]

theorem test_decode_or : (orTexts.all fun p => decide (decode (text p.1) = .ok p.2)) = true := by decide +kernel

/-- Statements of XOR. -/
def xorTexts : List (String × Instr) :=
  [("ATOM.XOR R0, [R2 + 16], R9;", .xorU32Ri ⟨Guard.always, false, Opex.none⟩ (.r 0) (.r 2) 0x00010#20 (.r 9)),
   ("@P0 ATOM.E.XOR.U32 R4, [0x1008], R9 &wr3;", .xorU32Abs ⟨⟨false, .p 0⟩, true, ⟨0#6, none, some 3, none⟩⟩ (.r 4) 0x01008#20 (.r 9)),
   ("@!P1 ATOM.XOR.32 P2, R6, [R2], R9;", .xorU32Sp ⟨⟨true, .p 1⟩, false, Opex.none⟩ (.p 2) (.r 6) (.r 2) (.r 9)),
   ("@PT ATOM.XOR.S32 R0, [R2], R9;", .xorS32Ri ⟨Guard.always, false, Opex.none⟩ (.r 0) (.r 2) 0x00000#20 (.r 9)),
   ("ATOM.E.XOR.S32 R4, [4112], R9 &req_5 &rd0 &wr1 ?2;", .xorS32Abs ⟨Guard.always, true, ⟨5#6, some 0, some 1, some 2⟩⟩ (.r 4) 0x01010#20 (.r 9)),
   ("@P0 ATOM.XOR.S32 PT, R6, [R2], R9;", .xorS32Sp ⟨⟨false, .p 0⟩, false, Opex.none⟩ .pt (.r 6) (.r 2) (.r 9)),
   ("@!P1 ATOM.XOR.U64 R0, [R2 - 8], R12 &wr3;", .xorU64Ri ⟨⟨true, .p 1⟩, false, ⟨0#6, none, some 3, none⟩⟩ (.r 0) (.r 2) 0xFFFF8#20 (.r 12)),
   ("@PT ATOM.E.XOR.U64 R4, [0x1ff8], R12;", .xorU64Abs ⟨Guard.always, true, Opex.none⟩ (.r 4) 0x01FF8#20 (.r 12)),
   ("ATOM.XOR.U64 P0, R6, [R2], R12;", .xorU64Sp ⟨Guard.always, false, Opex.none⟩ (.p 0) (.r 6) (.r 2) (.r 12))]

theorem test_decode_xor : (xorTexts.all fun p => decide (decode (text p.1) = .ok p.2)) = true := by decide +kernel

/-- Statements of EXCH. -/
def exchTexts : List (String × Instr) :=
  [("@P0 ATOM.EXCH.32 R0, [R2 + 0x20], R9 &req_5 &rd0 &wr1 ?2;", .exchU32Ri ⟨⟨false, .p 0⟩, false, ⟨5#6, some 0, some 1, some 2⟩⟩ (.r 0) (.r 2) 0x00020#20 (.r 9)),
   ("@!P1 ATOM.E.EXCH.U32 RZ, [0x1008], R9;", .exchU32Abs ⟨⟨true, .p 1⟩, true, Opex.none⟩ .rz 0x01008#20 (.r 9)),
   ("@PT ATOM.EXCH.U32 P6, R6, [R2], R9 &wr3;", .exchU32Sp ⟨Guard.always, false, ⟨0#6, none, some 3, none⟩⟩ (.p 6) (.r 6) (.r 2) (.r 9)),
   ("ATOM.EXCH.S32 R0, [R2 + 16], R9;", .exchS32Ri ⟨Guard.always, false, Opex.none⟩ (.r 0) (.r 2) 0x00010#20 (.r 9)),
   ("@P0 ATOM.E.EXCH.S32 R4, [4112], R9;", .exchS32Abs ⟨⟨false, .p 0⟩, true, Opex.none⟩ (.r 4) 0x01010#20 (.r 9)),
   ("@!P1 ATOM.EXCH.S32 P2, R6, [R2], R9 &req_5 &rd0 &wr1 ?2;", .exchS32Sp ⟨⟨true, .p 1⟩, false, ⟨5#6, some 0, some 1, some 2⟩⟩ (.p 2) (.r 6) (.r 2) (.r 9)),
   ("@PT ATOM.EXCH.64 R0, [R2], R12;", .exchU64Ri ⟨Guard.always, false, Opex.none⟩ (.r 0) (.r 2) 0x00000#20 (.r 12)),
   ("ATOM.E.EXCH.U64 R4, [0x1ff8], R12 &wr3;", .exchU64Abs ⟨Guard.always, true, ⟨0#6, none, some 3, none⟩⟩ (.r 4) 0x01FF8#20 (.r 12)),
   ("@P0 ATOM.EXCH.U64 PT, R6, [R2], R12;", .exchU64Sp ⟨⟨false, .p 0⟩, false, Opex.none⟩ .pt (.r 6) (.r 2) (.r 12))]

theorem test_decode_exch : (exchTexts.all fun p => decide (decode (text p.1) = .ok p.2)) = true := by decide +kernel

/-- Statements of SAFEADD. -/
def safeAddTexts : List (String × Instr) :=
  [("@!P1 ATOM.SAFEADD.U64 R0, [R2 - 8], R12;", .safeAddU64Ri ⟨⟨true, .p 1⟩, false, Opex.none⟩ (.r 0) (.r 2) 0xFFFF8#20 (.r 12)),
   ("@PT ATOM.E.SAFEADD.U64 R4, [0x1008], R12 &req_5 &rd0 &wr1 ?2;", .safeAddU64Abs ⟨Guard.always, true, ⟨5#6, some 0, some 1, some 2⟩⟩ (.r 4) 0x01008#20 (.r 12)),
   ("ATOM.SAFEADD.64 P0, R6, [R2], R12;", .safeAddU64Sp ⟨Guard.always, false, Opex.none⟩ (.p 0) (.r 6) (.r 2) (.r 12))]

theorem test_decode_safeAdd : (safeAddTexts.all fun p => decide (decode (text p.1) = .ok p.2)) = true := by decide +kernel

/-- Statements of CAS. -/
def casTexts : List (String × Instr) :=
  [("@P0 ATOM.CAS RZ, [R2 + 0x20], R10, R11 &wr3;", .casU32Ri ⟨⟨false, .p 0⟩, false, ⟨0#6, none, some 3, none⟩⟩ .rz (.r 2) 0x00020#20 (.r 10) (.r 11)),
   ("@!P1 ATOM.E.CAS.U32 R4, [4112], R10, R11;", .casU32Abs ⟨⟨true, .p 1⟩, true, Opex.none⟩ (.r 4) 0x01010#20 (.r 10) (.r 11)),
   ("@PT ATOM.CAS.32 P6, R6, [R2], R10, R11;", .casU32Sp ⟨Guard.always, false, Opex.none⟩ (.p 6) (.r 6) (.r 2) (.r 10) (.r 11)),
   ("ATOM.CAS.S32 R0, [R2 + 16], R10, R11 &req_5 &rd0 &wr1 ?2;", .casS32Ri ⟨Guard.always, false, ⟨5#6, some 0, some 1, some 2⟩⟩ (.r 0) (.r 2) 0x00010#20 (.r 10) (.r 11)),
   ("@P0 ATOM.E.CAS.S32 R4, [0x1ff8], R10, R11;", .casS32Abs ⟨⟨false, .p 0⟩, true, Opex.none⟩ (.r 4) 0x01FF8#20 (.r 10) (.r 11)),
   ("@!P1 ATOM.CAS.S32 P2, R6, [R2], R10, R11 &wr3;", .casS32Sp ⟨⟨true, .p 1⟩, false, ⟨0#6, none, some 3, none⟩⟩ (.p 2) (.r 6) (.r 2) (.r 10) (.r 11)),
   ("@PT ATOM.CAS.U64 R0, [R2], R12, R14;", .casU64Ri ⟨Guard.always, false, Opex.none⟩ (.r 0) (.r 2) 0x00000#20 (.r 12) (.r 14)),
   ("ATOM.E.CAS.U64 R4, [0x1008], R12, R14;", .casU64Abs ⟨Guard.always, true, Opex.none⟩ (.r 4) 0x01008#20 (.r 12) (.r 14)),
   ("@P0 ATOM.CAS.U64 PT, R6, [R2], R12, R14 &req_5 &rd0 &wr1 ?2;", .casU64Sp ⟨⟨false, .p 0⟩, false, ⟨5#6, some 0, some 1, some 2⟩⟩ .pt (.r 6) (.r 2) (.r 12) (.r 14))]

theorem test_decode_cas : (casTexts.all fun p => decide (decode (text p.1) = .ok p.2)) = true := by decide +kernel

/-- The page's examples with their comments, and the spellings of section 2.10: aliases are the same instruction. -/
theorem test_decode_aliases :
    decode (text "ATOM.ADD.S32 R9, [0xfff00], R8; # absolute 20-bit address") = .ok (.addS32Abs plain (.r 9) 0xFFF00#20 (.r 8)) ∧
      decode (text "ATOM.ADD.F32.FTZ.RN R0, [R1 - 400], R9; #") = .ok (.addF32Ri plain (.r 0) (.r 1) 0xFFE70#20 (.r 9)) ∧
      decode (text "ATOM.ADD R0, [R2], R1;") = .ok (.addU32Ri plain (.r 0) (.r 2) 0#20 (.r 1)) ∧
      decode (text "ATOM.EXCH.64 R0, [R2], R4;") = .ok (.exchU64Ri plain (.r 0) (.r 2) 0#20 (.r 4)) ∧
      decode (text "ATOM.ADD.F16x2.FTZ.RN R0, [R2], R1;") = .ok (.addF16x2Ri plain (.r 0) (.r 2) 0#20 (.r 1)) := by
  decide +kernel

/-- The refusals of R77 that the text alone shows, each with its reason (section 2.10). -/
theorem test_decode_refusals :
    ([("ATOM.ADD.128 R0, [R2], R4;", Reject.illegalSize128), ("ATOM.CAS.U128 R0, [R2], R4, R8;", .illegalSize128),
      ("ATOM.INC.U64 R0, [R2], R4;", .pairNotInTable), ("ATOM.MIN.F32.FTZ.RN R0, [R2], R1;", .pairNotInTable),
      ("ATOM.ADD.S64 R0, [R2], R4;", .pairNotInTable), ("ATOM.SAFEADD R0, [R2], R4;", .pairNotInTable),
      ("ATOM.ADD.F32 R0, [R2], R4;", .unknownSize), ("ATOM R0, [R2], R4;", .missingOperation),
      ("ATOM.SUB R0, [R2], R4;", .unknownOperation), ("LD R0, [R2];", .notAtom), ("", .noMnemonic),
      ("@P7 ATOM.ADD R0, [R2], R1;", .badGuard), ("ATOM.ADD Q0, [R2], R1;", .badRegister),
      ("ATOM.ADD R0, R2, R1;", .badAddress), ("ATOM.ADD R0 [R2], R1;", .badOperands),
      ("ATOM.ADD R0, [R2 + 524288], R1;", .immediateOutOfRange), ("ATOM.ADD R0, [R2 - 524289], R1;", .immediateOutOfRange),
      ("ATOM.ADD R0, [0x100000], R1;", .immediateOutOfRange), ("ATOM.ADD P2, R0, [R4 + 4], R1;", .sparseWithImmediate),
      ("ATOM.ADD P2, R0, [0x100], R1;", .sparseWithImmediate), ("ATOM.ADD R0, [R2], R1, R3;", .wrongRc),
      ("ATOM.CAS R0, [R2], R4;", .wrongRc), ("ATOM.ADD R0, [R2], R1 &rdx;", .badOpex), ("ATOM.ADD R0, [R2], R1", .badEnd)].all
        fun p => decide (decode (text p.1) = .error p.2)) = true := by
  decide +kernel

/-- What the encoder writes for two instructions, letter by letter. -/
theorem test_encode :
    encode (.addS32Abs plain (.r 9) 0xFFF00#20 (.r 8)) = text "ATOM.ADD.S32 R9 ,[1048320 ],R8 ;" ∧
      encode (.casU64Sp ⟨⟨true, .p 0⟩, true, ⟨1#6, none, some 2, none⟩⟩ (.p 2) .rz (.r 4) (.r 16) (.r 18)) =
        text "@!P0 ATOM.E.CAS.U64 P2 ,RZ ,[R4 ],R16 ,R18 &req_1 &wr2 ;" := by
  decide +kernel

/-! ### Well-formedness: an ill-formed term for each check of R75, which that check refuses -/

/-- The reason for which an instruction is refused, with 255 registers at version 5.0. -/
def problem (i : Instr) : Option IllFormed := i.record.firstProblem 255 ⟨5, 0⟩

theorem test_wf_pair_not_in_table :
    AtomInstr.firstProblem 255 ⟨5, 0⟩ ⟨plain, .inc, .s32, .ri (.r 2) 0#20, .r 0, .r 4, .rz⟩ = some .pairNotInTable := by decide

theorem test_wf_version_too_low :
    (Instr.minU64Ri plain (.r 0) (.r 2) 0#20 (.r 4)).record.firstProblem 255 ⟨3, 4⟩ = some .versionTooLow ∧
      (Instr.minU64Ri plain (.r 0) (.r 2) 0#20 (.r 4)).record.firstProblem 255 ⟨3, 5⟩ = none := by decide

theorem test_wf_no_such_register :
    problem (.addU32Ri plain (.r 255) (.r 2) 0#20 (.r 4)) = some .noSuchRegister ∧
      problem (.addU64Ri plain (.r 254) (.r 2) 0#20 (.r 4)) = some .noSuchRegister ∧
      problem (.addU32Ri plain (.r 254) (.r 2) 0#20 (.r 4)) = none := by decide

theorem test_wf_odd_pair :
    problem (.addU64Ri plain (.r 1) (.r 2) 0#20 (.r 4)) = some .oddPair ∧
      problem (.addU32Ri ⟨Guard.always, true, Opex.none⟩ (.r 0) (.r 3) 0#20 (.r 1)) = some .oddPair := by decide

theorem test_wf_rz_negative_offset :
    problem (.addU32Ri plain (.r 0) .rz 0xFFFFC#20 (.r 1)) = some .rzNegativeOffset ∧
      problem (.addU32Ri plain (.r 0) .rz 0x7FFFC#20 (.r 1)) = none := by decide

theorem test_wf_rc_without_cas :
    AtomInstr.firstProblem 255 ⟨5, 0⟩ ⟨plain, .add, .u32, .ri (.r 2) 0#20, .r 0, .r 4, .r 5⟩ = some .rcWithoutCas := by decide

theorem test_wf_cas_compare_rz : problem (.casU32Ri plain (.r 0) (.r 8) 0#20 .rz (.r 1)) = some .casCompareRz := by decide

/-- 32 bits: Rb even; 64 bits: Rb a multiple of four (section 2.6). -/
theorem test_wf_cas_compare_unaligned :
    problem (.casU32Ri plain (.r 0) (.r 8) 0#20 (.r 3) (.r 4)) = some .casCompareUnaligned ∧
      problem (.casU64Ri plain (.r 0) (.r 8) 0#20 (.r 2) (.r 4)) = some .casCompareUnaligned := by decide

theorem test_wf_cas_swap_rz : problem (.casU32Ri plain (.r 0) (.r 8) 0#20 (.r 2) .rz) = some .casSwapRz := by decide

theorem test_wf_cas_swap_not_next :
    problem (.casU32Ri plain (.r 0) (.r 8) 0#20 (.r 2) (.r 4)) = some .casSwapNotNext ∧
      problem (.casU64Ri plain (.r 0) (.r 8) 0#20 (.r 4) (.r 8)) = some .casSwapNotNext ∧
      problem (.casU64Ri plain (.r 0) (.r 8) 0#20 (.r 4) (.r 6)) = none ∧
      problem (.casS32Ri plain (.r 0) (.r 8) 0#20 (.r 4) (.r 5)) = none := by decide

/-! ### Results: the vectors of section 2 of 95_test_vectors.md, each in the three forms -/

/-- Section 2.1, 2.2. -/
theorem test_add_u32 : stores32 .addU32Ri .addU32Abs .addU32Sp
    [(0x00000007#32, 0x00000003#32, 0x0000000A#32), (0xFFFFFFFF#32, 0x00000001#32, 0x00000000#32), (0x12345678#32, 0x00000000#32, 0x12345678#32)] = true := by
  decide +kernel

/-- Section 2.1, 2.2. -/
theorem test_add_s32 : stores32 .addS32Ri .addS32Abs .addS32Sp
    [(0x7FFFFFFF#32, 0x00000001#32, 0x80000000#32), (0xFFFFFFFE#32, 0x00000005#32, 0x00000003#32), (0x80000000#32, 0xFFFFFFFF#32, 0x7FFFFFFF#32)] = true := by
  decide +kernel

/-- Section 2.1, 2.2. -/
theorem test_add_u64 : stores64 .addU64Ri .addU64Abs .addU64Sp
    [(0x00000000FFFFFFFF#64, 0x0000000000000001#64, 0x0000000100000000#64), (0xFFFFFFFFFFFFFFFF#64, 0x0000000000000001#64, 0x0000000000000000#64),
     (0x0123456789ABCDEF#64, 0x1111111111111111#64, 0x123456789ABCDF00#64)] = true := by
  decide +kernel

/-- Section 2.1, 2.2. -/
theorem test_add_f32 : stores32 .addF32Ri .addF32Abs .addF32Sp
    [(0x3F800000#32, 0x40000000#32, 0x40400000#32), (0x41200000#32, 0xC0A00000#32, 0x40A00000#32), (0x4B800000#32, 0x3F800000#32, 0x4B800000#32),
     (0x4B800001#32, 0x3F800000#32, 0x4B800002#32), (0x7F7FFFFF#32, 0x7F7FFFFF#32, 0x7F800000#32), (0x7F7FFFFF#32, 0x73000000#32, 0x7F800000#32),
     (0x7F7FFFFF#32, 0x72FFFFFF#32, 0x7F7FFFFF#32), (0x3F800000#32, 0xBF800000#32, 0x00000000#32), (0x80000000#32, 0x80000000#32, 0x80000000#32),
     (0x80000000#32, 0x00000000#32, 0x00000000#32), (0x00000001#32, 0x00000000#32, 0x00000000#32), (0x80000001#32, 0x80000000#32, 0x80000000#32),
     (0x007FFFFF#32, 0x3F800000#32, 0x3F800000#32), (0x00800001#32, 0x80800000#32, 0x00000000#32), (0x00800000#32, 0x00800000#32, 0x01000000#32),
     (0x7F800000#32, 0x3F800000#32, 0x7F800000#32)] = true := by
  decide +kernel

/-- Section 2.1, 2.2. -/
theorem test_add_f16x2 : stores32 .addF16x2Ri .addF16x2Abs .addF16x2Sp
    [(0x40003C00#32, 0x3C003C00#32, 0x42004000#32), (0x00006800#32, 0x00003C00#32, 0x00006800#32), (0x00006801#32, 0x00003C00#32, 0x00006802#32),
     (0x7BFF0000#32, 0x7BFF0000#32, 0x7C000000#32), (0x00000001#32, 0x00000001#32, 0x00000002#32), (0x03FF0001#32, 0x00018001#32, 0x04000000#32),
     (0x3C00C000#32, 0xBC003C00#32, 0x0000BC00#32), (0x7BFF7BFF#32, 0x4C004BFF#32, 0x7C007BFF#32), (0x80000400#32, 0x800083FF#32, 0x80000001#32)] = true := by
  decide +kernel

/-- Section 2.1, 2.2. -/
theorem test_add_f64 : stores64 .addF64Ri .addF64Abs .addF64Sp
    [(0x3FF0000000000000#64, 0x4000000000000000#64, 0x4008000000000000#64), (0x4340000000000000#64, 0x3FF0000000000000#64, 0x4340000000000000#64),
     (0x4340000000000001#64, 0x3FF0000000000000#64, 0x4340000000000002#64), (0x0000000000000001#64, 0x0000000000000001#64, 0x0000000000000002#64),
     (0x7FEFFFFFFFFFFFFF#64, 0x7FEFFFFFFFFFFFFF#64, 0x7FF0000000000000#64), (0x3FF0000000000000#64, 0xBFF0000000000000#64, 0x0000000000000000#64),
     (0x0010000000000000#64, 0x800FFFFFFFFFFFFF#64, 0x0000000000000001#64)] = true := by
  decide +kernel

/-- Section 2.3. -/
theorem test_min_u32 : stores32 .minU32Ri .minU32Abs .minU32Sp
    [(0x00000009#32, 0x00000004#32, 0x00000004#32), (0xFFFFFFFF#32, 0x00000001#32, 0x00000001#32), (0x00000005#32, 0x00000005#32, 0x00000005#32)] = true := by
  decide +kernel

/-- Section 2.3. -/
theorem test_min_s32 : stores32 .minS32Ri .minS32Abs .minS32Sp
    [(0xFFFFFFFF#32, 0x00000001#32, 0xFFFFFFFF#32), (0x80000000#32, 0x7FFFFFFF#32, 0x80000000#32)] = true := by
  decide +kernel

/-- Section 2.3. -/
theorem test_min_u64 : stores64 .minU64Ri .minU64Abs .minU64Sp
    [(0x0000000100000000#64, 0x00000000FFFFFFFF#64, 0x00000000FFFFFFFF#64)] = true := by
  decide +kernel

/-- Section 2.3. -/
theorem test_min_s64 : stores64 .minS64Ri .minS64Abs .minS64Sp
    [(0xFFFFFFFFFFFFFFFF#64, 0x0000000000000001#64, 0xFFFFFFFFFFFFFFFF#64), (0x8000000000000000#64, 0x7FFFFFFFFFFFFFFF#64, 0x8000000000000000#64)] = true := by
  decide +kernel

/-- Section 2.3. -/
theorem test_max_u32 : stores32 .maxU32Ri .maxU32Abs .maxU32Sp
    [(0x00000009#32, 0x00000004#32, 0x00000009#32), (0xFFFFFFFF#32, 0x00000001#32, 0xFFFFFFFF#32)] = true := by
  decide +kernel

/-- Section 2.3. -/
theorem test_max_s32 : stores32 .maxS32Ri .maxS32Abs .maxS32Sp
    [(0xFFFFFFFF#32, 0x00000001#32, 0x00000001#32), (0x80000000#32, 0x7FFFFFFF#32, 0x7FFFFFFF#32)] = true := by
  decide +kernel

/-- Section 2.3. -/
theorem test_max_u64 : stores64 .maxU64Ri .maxU64Abs .maxU64Sp
    [(0x0000000100000000#64, 0x00000000FFFFFFFF#64, 0x0000000100000000#64)] = true := by
  decide +kernel

/-- Section 2.3. -/
theorem test_max_s64 : stores64 .maxS64Ri .maxS64Abs .maxS64Sp
    [(0x8000000000000000#64, 0x0000000000000000#64, 0x0000000000000000#64), (0xFFFFFFFFFFFFFFFF#64, 0x0000000000000001#64, 0x0000000000000001#64)] = true := by
  decide +kernel

/-- Section 2.3. -/
theorem test_min_f16x2 : stores32 .minF16x2Ri .minF16x2Abs .minF16x2Sp
    [(0x40003C00#32, 0x3C004000#32, 0x3C003C00#32), (0x3C00C000#32, 0x3C003C00#32, 0x3C00C000#32), (0xFC007C00#32, 0x00000000#32, 0xFC000000#32)] = true := by
  decide +kernel

/-- Section 2.3. -/
theorem test_max_f16x2 : stores32 .maxF16x2Ri .maxF16x2Abs .maxF16x2Sp
    [(0x40003C00#32, 0x3C004000#32, 0x40004000#32), (0x3C00C000#32, 0x3C003C00#32, 0x3C003C00#32), (0xFC007C00#32, 0x00000000#32, 0x00007C00#32),
     (0x0001BC00#32, 0x8001C000#32, 0x0001BC00#32)] = true := by
  decide +kernel

/-- Section 2.4. -/
theorem test_inc_u32 : stores32 .incU32Ri .incU32Abs .incU32Sp
    [(0x00000003#32, 0x00000004#32, 0x00000004#32), (0x00000004#32, 0x00000004#32, 0x00000000#32), (0x00000009#32, 0x00000004#32, 0x00000000#32),
     (0x00000000#32, 0x00000000#32, 0x00000000#32), (0x00000005#32, 0x00000000#32, 0x00000000#32), (0xFFFFFFFE#32, 0xFFFFFFFF#32, 0xFFFFFFFF#32),
     (0xFFFFFFFF#32, 0xFFFFFFFF#32, 0x00000000#32)] = true := by
  decide +kernel

/-- Section 2.4. -/
theorem test_dec_u32 : stores32 .decU32Ri .decU32Abs .decU32Sp
    [(0x00000001#32, 0x00000004#32, 0x00000000#32), (0x00000000#32, 0x00000004#32, 0x00000004#32), (0x00000009#32, 0x00000004#32, 0x00000004#32),
     (0x00000004#32, 0x00000004#32, 0x00000003#32), (0x00000005#32, 0x00000000#32, 0x00000000#32), (0x00000000#32, 0x00000000#32, 0x00000000#32),
     (0xFFFFFFFF#32, 0xFFFFFFFF#32, 0xFFFFFFFE#32)] = true := by
  decide +kernel

/-- Section 2.5. -/
theorem test_and_u32 : stores32 .andU32Ri .andU32Abs .andU32Sp
    [(0xF0F0F0F0#32, 0x0FF00FF0#32, 0x00F000F0#32), (0x12345678#32, 0xFFFFFFFF#32, 0x12345678#32), (0x12345678#32, 0x00000000#32, 0x00000000#32)] = true := by
  decide +kernel

/-- Section 2.5. -/
theorem test_and_s32 : stores32 .andS32Ri .andS32Abs .andS32Sp
    [(0xF0F0F0F0#32, 0x0FF00FF0#32, 0x00F000F0#32)] = true := by
  decide +kernel

/-- Section 2.5. -/
theorem test_and_u64 : stores64 .andU64Ri .andU64Abs .andU64Sp
    [(0xFFFF0000FFFF0000#64, 0x0F0F0F0F0F0F0F0F#64, 0x0F0F00000F0F0000#64)] = true := by
  decide +kernel

/-- Section 2.5. -/
theorem test_or_u32 : stores32 .orU32Ri .orU32Abs .orU32Sp
    [(0xF0F0F0F0#32, 0x0FF00FF0#32, 0xFFF0FFF0#32), (0x12345678#32, 0x00000000#32, 0x12345678#32)] = true := by
  decide +kernel

/-- Section 2.5. -/
theorem test_or_s32 : stores32 .orS32Ri .orS32Abs .orS32Sp
    [(0xF0F0F0F0#32, 0x0FF00FF0#32, 0xFFF0FFF0#32)] = true := by
  decide +kernel

/-- Section 2.5. -/
theorem test_or_u64 : stores64 .orU64Ri .orU64Abs .orU64Sp
    [(0xFFFF0000FFFF0000#64, 0x0F0F0F0F0F0F0F0F#64, 0xFFFF0F0FFFFF0F0F#64)] = true := by
  decide +kernel

/-- Section 2.5. -/
theorem test_xor_u32 : stores32 .xorU32Ri .xorU32Abs .xorU32Sp
    [(0xF0F0F0F0#32, 0x0FF00FF0#32, 0xFF00FF00#32), (0x12345678#32, 0x12345678#32, 0x00000000#32)] = true := by
  decide +kernel

/-- Section 2.5. -/
theorem test_xor_s32 : stores32 .xorS32Ri .xorS32Abs .xorS32Sp
    [(0xF0F0F0F0#32, 0x0FF00FF0#32, 0xFF00FF00#32)] = true := by
  decide +kernel

/-- Section 2.5. -/
theorem test_xor_u64 : stores64 .xorU64Ri .xorU64Abs .xorU64Sp
    [(0xFFFF0000FFFF0000#64, 0x0F0F0F0F0F0F0F0F#64, 0xF0F00F0FF0F00F0F#64)] = true := by
  decide +kernel

/-- Section 2.5. -/
theorem test_exch_u32 : stores32 .exchU32Ri .exchU32Abs .exchU32Sp
    [(0x11111111#32, 0x22222222#32, 0x22222222#32)] = true := by
  decide +kernel

/-- Section 2.5. -/
theorem test_exch_s32 : stores32 .exchS32Ri .exchS32Abs .exchS32Sp
    [(0x11111111#32, 0x22222222#32, 0x22222222#32)] = true := by
  decide +kernel

/-- Section 2.5. -/
theorem test_exch_u64 : stores64 .exchU64Ri .exchU64Abs .exchU64Sp
    [(0x1111111111111111#64, 0x2222222222222222#64, 0x2222222222222222#64)] = true := by
  decide +kernel

/-- Section 2.6, in the three forms: the value stored, and R0 receives the prior value. -/
theorem test_cas_u32 :
    ([(0x00000000#32, 0x00000000#32, 0x00000001#32, 0x00000001#32),
      (0x00000001#32, 0x00000000#32, 0x00000001#32, 0x00000001#32),
      (0x00000005#32, 0x00000005#32, 0x00000005#32, 0x00000005#32)].all fun v =>
        [Instr.casU32Ri plain (.r 0) (.r 2) 0#20 (.r 4) (.r 5), .casU32Abs plain (.r 0) 0x1000#20 (.r 4) (.r 5),
          .casU32Sp plain .pt (.r 0) (.r 2) (.r 4) (.r 5)].all fun i =>
          run32 i v.1 v.2.1 v.2.2.1 == some (v.2.2.2, v.1)) = true := by
  decide +kernel

/-- Section 2.6, in the three forms: the value stored, and R0 receives the prior value. -/
theorem test_cas_s32 :
    ([(0xFFFFFFFF#32, 0xFFFFFFFF#32, 0x00000000#32, 0x00000000#32),
      (0x80000000#32, 0x00000000#32, 0x00000007#32, 0x80000000#32)].all fun v =>
        [Instr.casS32Ri plain (.r 0) (.r 2) 0#20 (.r 4) (.r 5), .casS32Abs plain (.r 0) 0x1000#20 (.r 4) (.r 5),
          .casS32Sp plain .pt (.r 0) (.r 2) (.r 4) (.r 5)].all fun i =>
          run32 i v.1 v.2.1 v.2.2.1 == some (v.2.2.2, v.1)) = true := by
  decide +kernel

/-- Section 2.6, in the three forms: the value stored, and R0 receives the prior value. -/
theorem test_cas_u64 :
    ([(0x00000001FFFFFFFF#64, 0x00000001FFFFFFFF#64, 0x0000000200000000#64, 0x0000000200000000#64),
      (0x0000000100000000#64, 0x0000000000000000#64, 0x0000000000000009#64, 0x0000000100000000#64),
      (0x0000000000000000#64, 0x0000000000000000#64, 0xFFFFFFFFFFFFFFFF#64, 0xFFFFFFFFFFFFFFFF#64)].all fun v =>
        [Instr.casU64Ri plain (.r 0) (.r 2) 0#20 (.r 4) (.r 6), .casU64Abs plain (.r 0) 0x1000#20 (.r 4) (.r 6),
          .casU64Sp plain .pt (.r 0) (.r 2) (.r 4) (.r 6)].all fun i =>
          run64 i v.1 v.2.1 v.2.2.1 == some (v.2.2.2, v.1)) = true := by
  decide +kernel
/-- Sections 2.6 and 2.10: statements that are read but are not well formed, with the check that refuses them. -/
theorem test_text_well_formedness :
    ([("ATOM.CAS R0, [R8], R2, R3;", none), ("ATOM.CAS.32 R0, [R8], R4, R5;", none),
      ("ATOM.CAS R0, [R8], R3, R4;", some IllFormed.casCompareUnaligned), ("ATOM.CAS R0, [R8], R2, R4;", some .casSwapNotNext),
      ("ATOM.CAS R0, [R8], RZ, R1;", some .casCompareRz), ("ATOM.CAS R0, [R8], R2, RZ;", some .casSwapRz),
      ("ATOM.CAS.64 R0, [R8], R4, R6;", none), ("ATOM.CAS.64 R0, [R8], R2, R4;", some .casCompareUnaligned),
      ("ATOM.CAS.64 R1, [R8], R4, R6;", some .oddPair), ("ATOM.ADD.U64 R1, [R2], R4;", some .oddPair),
      ("ATOM.E.ADD R0, [R3], R1;", some .oddPair), ("ATOM.ADD R0, [RZ - 4], R1;", some .rzNegativeOffset),
      ("ATOM.SAFEADD.U64 R0, [R2], R4;", none)].all
        fun p => decide ((decode (text p.1)).toOption.map problem = some p.2)) = true := by
  decide +kernel

/-- The outcome is a next state of which `p` holds. -/
def leaves (o : Out) (p : State → Bool) : Bool :=
  match o with
  | .next s => p s
  | _ => false

/-- The outcome is this refusal. -/
def refusedAs (o : Out) (r : Refusal) : Bool :=
  match o with
  | .refused r' => decide (r' = r)
  | _ => false

/-- The outcome is this fault. -/
def faultedAs (o : Out) (f : Fault) : Bool :=
  match o with
  | .fault f' => decide (f' = f)
  | _ => false

theorem next_of_leaves {o : Out} {p : State → Bool} (h : leaves o p = true) : ∃ s, o = .next s ∧ p s = true := by
  unfold leaves at h
  split at h
  · exact ⟨_, rfl, h⟩
  · cases h

/-- The destination may be a source: sources are read first (program 7 of section 3). -/
theorem test_destination_is_a_source :
    run32 (.exchU32Ri plain (.r 0) (.r 2) 0#20 (.r 0)) 0x11111111#32 0#32 0#32 = some (0x00000000#32, 0x11111111#32) ∧
      leaves (exec (.addU32Ri plain (.r 2) (.r 2) 0#20 (.r 3))
          (small (write32 [] 0x1000 0x22222227#32) (writeReg (writeReg [] (.r 2) 0x1000#32) (.r 3) 7#32)))
        (· == { small (write32 [] 0x1000 0x2222222E#32) [] with
          threads := [{ smallThread (writeReg (writeReg [] (.r 2) 0x22222227#32) (.r 3) 7#32) with pc := 1 }] }) = true := by
  decide +kernel

/-! ### Addresses: section 2.7 -/

/-- The effective address of an ADD.U32 with the base R4 (with `.E` the pair R4). -/
def address (e : Bool) (addr : Addr) (base : DWord) : DWord :=
  effectiveAddress ⟨⟨Guard.always, e, Opex.none⟩, .add, .u32, addr, .r 0, .r 1, .rz⟩ (writePair [] (.r 4) base)

theorem test_effective_addresses :
    ([(false, Addr.ri (.r 4) (immField (-400)), 0x00001000#64, 0x0000000E70#64),
      (false, .ri (.r 4) (immField (-400)), 0x00000010#64, 0x00FFFFFE80#64),
      (false, .ri (.r 4) (immField 8), 0xFFFFFFF8#64, 0#64), (false, .ri (.r 4) (immField 16), 0xFFFFFFF8#64, 8#64),
      (false, .ri (.r 4) (immField 524287), 0x2000#64, 0x81FFF#64),
      (false, .ri (.r 4) (immField (-524288)), 0x100000#64, 0x80000#64),
      (true, .ri (.r 4) (immField 8), 0x0000000200000100#64, 0x0000000200000108#64),
      (true, .ri (.r 4) (immField (-400)), 0x0000000200000100#64, 0x00000001FFFFFF70#64),
      (true, .ri (.r 4) (immField 8), 0xFFFFFFF8#64, 0x100000000#64),
      (true, .ri (.r 4) (immField (-8)), 0#64, 0xFFFFFFFFFFFFFFF8#64),
      (true, .ri (.r 4) (immField 8), 0xFFFFFFFFFFFFFFF8#64, 0#64), (false, .abs 0xFFF00#20, 0#64, 0xFFF00#64),
      (true, .abs 0xFFFFF#20, 0#64, 0xFFFFF#64), (false, .abs 0#20, 0#64, 0#64),
      (false, .sp .pt (.r 4), 0x4000#64, 0x4000#64), (true, .sp .pt (.r 4), 0x0000000200004000#64, 0x0000000200004000#64)].all
        fun v => address v.1 v.2.1 v.2.2.1 == v.2.2.2) = true := by
  decide +kernel

/-- The numbers of registers: RZ has the open one (R11). -/
theorem test_register_index : (Reg.r 254).index = 254 ∧ Reg.rz.index = Config.rzIndex := ⟨rfl, rfl⟩

/-- The fields that the bits of an instruction hold: Ps bit-inverted in form SP, Rc as RZ where the text omits it, no Ra in form ABS
(R76). -/
theorem test_binary_fields :
    (let I := (Instr.addU64Sp plain (.p 2) (.r 0) (.r 4) (.r 6)).record
     I.fields.ps = some 5#3 ∧ I.fields.ra = some 4 ∧ I.fields.imm20 = none ∧ I.fields.rc = Config.rzIndex) ∧
      (let I := (Instr.casU32Abs plain (.r 1) 0xFFF00#20 (.r 2) (.r 3)).record
       I.fields.ps = none ∧ I.fields.ra = none ∧ I.fields.imm20 = some 0xFFF00#20 ∧ I.fields.rc = 3) :=
  ⟨⟨rfl, rfl, rfl, rfl⟩, rfl, rfl, rfl, rfl⟩

/-- The field of an offset (R64), and the Ps fields (section 1.5). -/
theorem test_fields :
    immField (-400) = 0xFFE70#20 ∧
      ([.p 0, .p 1, .p 2, .p 3, .p 4, .p 5, .p 6, PredReg.pt].map fun p => (psField p).toNat) = [7, 6, 5, 4, 3, 2, 1, 0] := by
  decide

/-! ### Errors, guards, sparse pages: sections 2.8 and 2.9 -/

/-- A word at 0x1000 that R0 and R2 (the base) go with. -/
def checked (base : Word) : State :=
  small (write32 [] 0x1000 0x11223344#32) (writeReg (writeReg [] (.r 0) 0xAAAAAAAA#32) (.r 2) base)

/-- The state with the fault record of its one thread set. -/
def withFault (s : State) (e : ErrorKind) (ea : DWord) : State :=
  { s with threads := s.threads.map fun th => { th with fault := some (e, ea) }, draws := 1 }

/-- One error applies: it is recorded with the address, and nothing else changes. -/
theorem test_one_error :
    leaves (exec (.addU32Ri plain (.r 0) (.r 2) 2#20 (.r 1)) (checked 0x1000#32))
        (· == withFault (checked 0x1000#32) .misalignedAddress 0x1002#64) = true ∧
      leaves (exec (.addU64Ri plain (.r 0) (.r 2) 4#20 (.r 4)) (checked 0x1000#32))
        (· == withFault (checked 0x1000#32) .misalignedAddress 0x1004#64) = true ∧
      leaves (exec (.addU32Ri plain (.r 0) (.r 2) 0x1000#20 (.r 1)) (checked 0x1000#32))
        (· == (withFault (checked 0x1000#32) .addressOutOfRange 0x2000#64)) = true ∧
      leaves (exec (.addU32Ri plain (.r 0) (.r 2) 0xFFFFC#20 (.r 1)) (checked 0x1000#32))
        (· == (withFault (checked 0x1000#32) .addressOutOfRange 0x0FFC#64)) = true := by
  decide +kernel

/-- Several errors apply: any one may be the one reported (R165). -/
theorem test_several_errors :
    applicableErrors smallLaunch 0x5000#64 4 = [.invalidAddressSpace, .addressOutOfRange] ∧
      applicableErrors smallLaunch 0x5001#64 4 = [.invalidAddressSpace, .misalignedAddress, .addressOutOfRange] ∧
      applicableErrors smallLaunch 0x1004#64 4 = [] ∧ applicableErrors smallLaunch 0x1FF8#64 8 = [] ∧
      applicableErrors { smallLaunch with allocated := [⟨0x1000, 4⟩] } 0x1000#64 8 = [.addressOutOfRange] := by
  decide +kernel

/-- A false guard, a helper pixel and a killed pixel: no address is formed, the pc advances (R81, R82, R177). -/
theorem test_not_executed :
    leaves (exec (.addU32Ri ⟨⟨true, .p 0⟩, false, Opex.none⟩ (.r 0) (.r 2) 2#20 (.r 1)) (checked 0x1000#32))
        (· == { checked 0x1000#32 with threads := (checked 0x1000#32).threads.map fun th => { th with pc := 1 } }) = true ∧
      (∀ th ∈ [{ smallThread [] with killed := true }, { smallThread [] with helper := true }],
        active { smallLaunch with isPixelShader := true } th (Instr.addU32Ri plain (.r 0) (.r 2) 2#20 (.r 1)).record = false ∧
          active smallLaunch th (Instr.addU32Ri plain (.r 0) (.r 2) 2#20 (.r 1)).record = true) := by
  decide +kernel

/-- Ps receives 0 where the page is not sparse, PT discards it; on the sparse page both kinds of form are refused. -/
theorem test_sparse_forms :
    leaves (exec (.addU32Sp plain (.p 0) (.r 0) (.r 2) (.r 1)) (checked 0x1000#32))
        (· == { checked 0x1000#32 with
          threads := [{ smallThread (writeReg (writeReg [] (.r 0) 0x11223344#32) (.r 2) 0x1000#32) with
            pc := 1, preds := Vector.replicate 7 false }] }) = true ∧
      refusedAs (exec (.addU32Sp plain (.p 2) (.r 0) (.r 2) (.r 1)) (checked 0x8000#32)) .sparsePage = true ∧
      refusedAs (exec (.addU32Ri plain (.r 0) (.r 2) 0#20 (.r 1)) (checked 0x8000#32)) .sparsePage = true := by
  decide +kernel

/-- SAFEADD is refused at its event (R131), and an error of its access is still recorded. -/
theorem test_safeAdd :
    refusedAs (exec (.safeAddU64Ri plain (.r 0) (.r 2) 0#20 (.r 4)) (checked 0x1000#32)) .safeAddFormula = true ∧
      leaves (exec (.safeAddU64Ri plain (.r 0) (.r 2) 4#20 (.r 4)) (checked 0x1000#32))
        (· == withFault (checked 0x1000#32) .misalignedAddress 0x1004#64) = true := by
  decide +kernel

/-! ### Steps -/

/-- The text of the first test of placing: 26 bytes, as one number, the first byte least significant. -/
def placed : Nat := ((text "ATOM.ADD RZ, [0x1000], RZ;").map BitVec.toNat).foldr (fun b w => b + 256 * w) 0

/-- From reset nothing can step; with a statement placed, the next step runs it (no address is allocated at reset). -/
theorem test_reset_and_placed_statement :
    steppingThread State.reset = none ∧
      (State.reset.withFetchWord 208 placed).launch.program = [text "ATOM.ADD RZ, [0x1000], RZ;"] ∧
      leaves (step (State.reset.withFetchWord 208 placed))
        (fun s => decide (s.threads.map Thread.fault = [some (.addressOutOfRange, 0x1000#64)])) = true := by
  decide +kernel

/-- Two threads on one word (program 4 of section 3): R1 is what each adds, `ks` the scheduling choices. -/
def twoThreads (w : String) (ks : List Choice) : State :=
  { small (write32 [] 0x1000 0xA#32) [] with
    launch := { smallLaunch with program := [text w] }
    threads := [smallThread (writeReg (writeReg [] (.r 1) 1#32) (.r 2) 0x1000#32),
      smallThread (writeReg (writeReg [] (.r 1) 2#32) (.r 2) 0x1000#32)]
    schedule := ks }

/-- What a step leaves: the word at 0x1000 and R0 of each thread. -/
def observe (o : Out) : Option (Word × List Word) :=
  match o with
  | .next s => some (read32 s.mem 0x1000, s.threads.map fun th => readReg th.regs (.r 0))
  | _ => none

theorem test_step_of_either_thread :
    observe (step (twoThreads "ATOM.ADD R0, [R2], R1;" [⟨0, .run⟩])) = some (0xB#32, [0xA#32, 0#32]) ∧
      observe (step (twoThreads "ATOM.ADD R0, [R2], R1;" [⟨1, .run⟩])) = some (0xC#32, [0#32, 0xA#32]) := by
  decide +kernel

/-- One thread with three statements: R1 is 1, R2 is 0x1000; the words at 0x1000 and 0x1010 are 0x1008 and 5. -/
def threeStatements (w : List String) (early : List Early) (ks : List Choice) : State :=
  { small (write32 (write32 [] 0x1000 0x1008#32) 0x1010 5#32) [] with
    launch := { smallLaunch with program := w.map text }
    threads := [{ smallThread (writeReg (writeReg [] (.r 1) 1#32) (.r 2) 0x1000#32) with early := early }]
    schedule := ks }

/-- What a step leaves: the words at 0x1000, 0x1008 and 0x1010, R0, the pc, and how many events are ahead of their turn. -/
def observeOrder (o : Out) : Option (List Nat) :=
  match o with
  | .next s =>
    s.thread.map fun th =>
      [(read32 s.mem 0x1000).toNat, (read32 s.mem 0x1008).toNat, (read32 s.mem 0x1010).toNat, (readReg th.regs (.r 0)).toNat,
        th.pc, th.early.length]
  | _ => none

/-- The third statement takes effect before the first and before the second, whose address waits for the first (R38 (4)); the second,
which reads what the first writes, does not, nor does one that overlaps the first (R38 (3)): the first runs instead. -/
theorem test_step_lets_a_later_event_go_ahead :
    observeOrder (step (threeStatements ["ATOM.EXCH R0, [R2], R1;", "ATOM.ADD R5, [R0], R1;", "ATOM.ADD R6, [0x1010], R1;"] []
        [⟨0, .ahead 2⟩])) = some [0x1008, 0, 6, 0, 0, 1] ∧
      observeOrder (step (threeStatements ["ATOM.EXCH R0, [R2], R1;", "ATOM.ADD R5, [R0], R1;", "ATOM.ADD R6, [0x1010], R1;"] []
        [⟨0, .ahead 1⟩])) = some [1, 0, 5, 0x1008, 1, 0] ∧
      observeOrder (step (threeStatements ["ATOM.EXCH R0, [R2], R1;", "ATOM.ADD R5, [R0], R1;", "ATOM.EXCH R6, [0x1000], R2;"] []
        [⟨0, .ahead 2⟩])) = some [1, 0, 5, 0x1008, 1, 0] := by
  decide +kernel

/-- The event of an ADD of 1 to the word 0x1008 that went ahead at a pc: it returned 7, for R0. -/
def wentAhead (pc : Nat) : Early := ⟨pc, 0x1008#64, 4, [(0, 7#32)], []⟩

/-- Reached by the pc, its Rd is written; a reader of R0, which the older statement writes too, still waits for that one; and the
older statement that turns out to address its word has no step (R38 (3)). -/
theorem test_step_after_an_event_went_ahead :
    observeOrder (step (threeStatements ["ATOM.ADD R0, [0x1008], R1;"] [wentAhead 0] [⟨0, .run⟩])) =
        some [0x1008, 0, 5, 7, 1, 0] ∧
      observeOrder (step (threeStatements ["ATOM.EXCH R0, [R2], R1;", "ATOM.ADD R0, [0x1008], R1;", "ATOM.ADD R6, [0x1010], R0;"]
        [wentAhead 1] [⟨0, .ahead 2⟩])) = some [1, 0, 5, 0x1008, 1, 1] ∧
      faultedAs (step (threeStatements ["ATOM.EXCH R5, [0x1008], R1;", "ATOM.ADD R0, [0x1008], R1;"] [wentAhead 1] [⟨0, .run⟩]))
        .forbiddenOrder = true := by
  decide +kernel

/-! ### Witnesses: every hypothesis of the statements is met together, by the states and operands shown -/

/-- A state in which every row of the tables of texts can perform its event: R2 and the pair R2 hold 0x1000 + 8. -/
def readyState : State := small (write32 [] 0x1008 5#32) (writeReg [] (.r 2) 0x1008#32)

/-- Its thread. -/
def readyThread : Thread := smallThread (writeReg [] (.r 2) 0x1008#32)

/-- The instruction's operands satisfy every hypothesis of `Ready` in that state. -/
def readyHere (i : Instr) : Bool :=
  i.wf readyState.launch.numGpr readyState.launch.spa && active readyState.launch readyThread i.record &&
    decide (applicableErrors readyState.launch (effectiveAddress i.record readyThread.regs) i.record.sz.bytes = []) &&
    !sparseAt readyState.launch (effectiveAddress i.record readyThread.regs)

theorem readyHere_ready {i : Instr} (h : readyHere i = true) : Ready i readyState readyThread := by
  simp only [readyHere, Bool.and_eq_true, decide_eq_true_eq, Bool.not_eq_true'] at h
  exact ⟨rfl, h.1.1.1, h.1.1.2, h.1.2, h.2⟩

/-- Every row of the opcode table is ready in that state: the hypotheses of `AddIntegerStoresWrappedSum` and the other statements
of results, of `AtomChangesOnlyItsDestinations` and of the last clause of `SafeAddIsRefusedAtItsEvent`. -/
theorem witness_every_instruction_is_ready :
    ([addTexts, minTexts, maxTexts, incTexts, decTexts, andTexts, orTexts, xorTexts, exchTexts, safeAddTexts, casTexts].all
      fun t => t.all fun p => readyHere p.2) = true := by
  decide +kernel

/-- Accesses at the ends of the allocated region, for 4 and for 8 bytes. -/
theorem witness_ready_at_the_ends :
    (["ATOM.ADD R0, [0x1000], R1;", "ATOM.ADD R0, [0x1ffc], R1;", "ATOM.ADD.U64 R0, [0x1000], R4;",
      "ATOM.ADD.U64 R252, [0x1ff8], RZ;"].all fun t => (decode (text t)).toOption.any readyHere) = true := by
  decide +kernel

/-- `SafeAddIsRefusedAtItsEvent`: the first two clauses. -/
theorem witness_SafeAddIsRefusedAtItsEvent :
    (Instr.safeAddU64Ri plain (.r 0) (.r 2) 4#20 (.r 4)).record.op = .safeAdd ∧
      (Instr.safeAddU64Ri plain (.r 0) (.r 2) 4#20 (.r 4)).wf 255 ⟨5, 0⟩ = true ∧
      active smallLaunch readyThread (Instr.safeAddU64Ri ⟨⟨true, .pt⟩, false, Opex.none⟩ (.r 0) (.r 2) 4#20 (.r 4)).record = false ∧
      active smallLaunch readyThread (Instr.safeAddU64Ri plain (.r 0) (.r 2) 4#20 (.r 4)).record = true ∧
      Applies .misalignedAddress smallLaunch
        (effectiveAddress (Instr.safeAddU64Ri plain (.r 0) (.r 2) 4#20 (.r 4)).record readyThread.regs) 8 := by
  refine ⟨rfl, by decide, by decide, by decide, ?_⟩
  unfold Applies
  decide

/-- `FalseGuardOnlyAdvancesPc`: `@!PT`, `@!P0` with P0 true, `@P6` with P6 false. -/
theorem witness_FalseGuardOnlyAdvancesPc :
    readyState.thread = some readyThread ∧
      (∀ g ∈ [Guard.mk true .pt, ⟨true, .p 0⟩, ⟨false, .p 6⟩],
        (Instr.addU32Ri ⟨g, false, Opex.none⟩ (.r 0) (.r 2) 0#20 (.r 4)).wf 255 ⟨5, 0⟩ = true) ∧
      readyThread.preds[0] = true ∧ readyThread.preds[6] = false := by
  exact ⟨rfl, by decide, by decide, by decide⟩

/-- `HelperOrKilledPixelOnlyAdvancesPc`: a helper pixel and a killed pixel of a pixel shader. -/
theorem witness_HelperOrKilledPixelOnlyAdvancesPc :
    ∀ th ∈ [{ readyThread with helper := true }, { readyThread with killed := true }],
      (State.thread { readyState with launch := { smallLaunch with isPixelShader := true }, threads := [th] }) = some th ∧
        (th.helper = true ∨ th.killed = true) ∧ (Instr.incU32Abs plain (.r 0) 0x1000#20 (.r 4)).wf 255 ⟨5, 0⟩ = true := by
  intro th h
  refine ⟨rfl, ?_, by decide⟩
  simp only [List.mem_cons, List.not_mem_nil, or_false] at h
  rcases h with rfl | rfl <;> simp

/-- `AddressErrorIsRecordedAloneWithItsAddress`: each cause, at the boundary of its range. -/
theorem witness_AddressErrorIsRecordedAloneWithItsAddress :
    (∀ i ∈ [Instr.decU32Abs plain (.r 0) 0x5FFC#20 (.r 4), .decU32Abs plain (.r 0) 0x1001#20 (.r 4),
        .decU32Abs plain (.r 0) 0x2000#20 (.r 4)],
      readyState.thread = some readyThread ∧ i.wf 255 ⟨5, 0⟩ = true ∧ active smallLaunch readyThread i.record = true) ∧
    effectiveAddress (Instr.decU32Abs plain (.r 0) 0x5FFC#20 (.r 4)).record readyThread.regs = 0x5FFC#64 ∧
    Applies .invalidAddressSpace smallLaunch 0x5FFC#64 4 ∧ Applies .misalignedAddress smallLaunch 0x1001#64 4 ∧
      Applies .addressOutOfRange smallLaunch 0x2000#64 4 := by
  refine ⟨?_, rfl, ⟨3, by decide, .inr ⟨⟨0x5000, 0x1000⟩, by decide, by decide, by decide⟩⟩, by unfold Applies; decide, 0, by decide, ?_⟩
  · intro i h
    simp only [List.mem_cons, List.not_mem_nil, or_false] at h
    rcases h with rfl | rfl | rfl <;> exact ⟨rfl, by decide, by decide⟩
  · simp [InSet, smallLaunch]

/-- `SparsePageIsRefused`: the first and the last word of the page. -/
theorem witness_SparsePageIsRefused :
    readyState.thread = some readyThread ∧
      ([0x8000#20, 0x8FFC#20].all fun a =>
        (Instr.orU32Abs plain (.r 0) a (.r 4)).wf 255 ⟨5, 0⟩ &&
          active smallLaunch readyThread (Instr.orU32Abs plain (.r 0) a (.r 4)).record &&
          decide ((effectiveAddress (Instr.orU32Abs plain (.r 0) a (.r 4)).record readyThread.regs).toNat / 4096 ∈
            smallLaunch.sparsePages)) = true ∧
      (∀ e, ¬Applies e smallLaunch 0x8000#64 4) ∧ ∀ e, ¬Applies e smallLaunch 0x8FFC#64 4 := by
  refine ⟨rfl, by decide +kernel, ?_, ?_⟩ <;> intro e <;> cases e <;> simp [Applies, InSet, smallLaunch, Launch.reset] <;> omega

/-- `IllFormedInstructionIsRefused`. -/
theorem witness_IllFormedInstructionIsRefused : (Instr.addU64Ri plain (.r 1) (.r 2) 0#20 (.r 4)).wf 255 ⟨5, 0⟩ = false := by
  decide

/-- `CasRegistersAreAlignedAndConsecutive` and `PairsBeginEvenAndExist`: the lowest and the highest registers. -/
theorem witness_CasRegistersAreAlignedAndConsecutive :
    ∀ i ∈ [Instr.casU32Ri plain (.r 254) (.r 254) 0#20 (.r 0) (.r 1), .casU32Ri plain .rz (.r 0) 0#20 (.r 252) (.r 253),
        .casU64Ri ⟨Guard.always, true, Opex.none⟩ (.r 252) (.r 252) 0#20 (.r 0) (.r 2),
        .casU64Ri plain .rz (.r 254) 0#20 (.r 248) (.r 250)],
      i.record.op = .cas ∧ i.wf 255 ⟨5, 0⟩ = true := by
  decide

/-- `StarredPairsNeedSpa35`: versions on both sides of 3.5, a starred pair and one that is not. -/
theorem witness_StarredPairsNeedSpa35 :
    (Instr.xorU64Ri plain (.r 0) (.r 2) 0#20 (.r 4)).wf 255 ⟨3, 4⟩ = false ∧
      (Instr.xorU64Ri plain (.r 0) (.r 2) 0#20 (.r 4)).wf 255 ⟨3, 5⟩ = true ∧
      (Instr.xorU64Ri plain (.r 0) (.r 2) 0#20 (.r 4)).wf 255 ⟨4, 0⟩ = true ∧
      (Instr.exchU64Ri plain (.r 0) (.r 2) 0#20 (.r 4)).wf 255 ⟨2, 9⟩ = true := by
  decide

/-- `OpexHasNoEffect`. -/
theorem witness_OpexHasNoEffect :
    AtomInstr.toInstr?
        { (Instr.addU32Ri plain (.r 0) (.r 2) 0#20 (.r 4)).record with
          common := { plain with opex := ⟨63#6, some 5, none, some 0⟩ } } =
      some (.addU32Ri ⟨Guard.always, false, ⟨63#6, some 5, none, some 0⟩⟩ (.r 0) (.r 2) 0#20 (.r 4)) := rfl

/-- `RegisterFormAddressIsTheWrappedSum` and `AbsoluteAndSparseAddressesAreUnshifted`: each form, with and without `.E`. -/
theorem witness_addresses :
    (Instr.addU32Ri plain (.r 0) .rz 0x7FFFF#20 (.r 4)).record.addr = .ri .rz 0x7FFFF#20 ∧
      (Instr.addU32Abs ⟨Guard.always, true, Opex.none⟩ (.r 0) 0xFFFFF#20 (.r 4)).record.addr = .abs 0xFFFFF#20 ∧
      (Instr.addU32Sp plain .pt (.r 0) (.r 2) (.r 4)).record.addr = .sp .pt (.r 2) ∧ plain.e = false := by
  decide

/-- `CanonicalMemoryIsDeterminedByItsBytes`, `StepKeepsCanonicalForm`: a memory and a state with something in them. -/
theorem witness_canonical : Memory.wf readyState.mem ∧ readyState.mem ≠ [] ∧ readyState.wf := by
  refine ⟨by decide +kernel, by decide +kernel, by unfold Memory.wf; decide +kernel, ?_⟩
  intro th h
  simp only [readyState, small, List.mem_singleton] at h
  subst h
  show storeWf _
  decide +kernel

/-- `MemoryIsLittleEndian`, `RzReadsZeroAndDiscardsWrites`, `PtReadsTrueAndDiscardsWrites`: just outside, and another register. -/
theorem witness_other_places :
    (0xFFF < 0x1000 ∨ 0x1000 + 4 ≤ 0xFFF) ∧ (0x1004 < 0x1000 ∨ 0x1000 + 4 ≤ 0x1004) ∧
      (0x1008 < 0x1000 ∨ 0x1000 + 8 ≤ 0x1008) ∧ (1 : Nat) ≠ 0 ∧ (6 : Fin 7) ≠ 0 := by
  decide

/-- `FloatSumIsRoundedToNearestEven`, `NumAdditionsAreTheFormatSums`: finite operands whose sum rounds, overflows and is zero, and
operands that are infinite or no number. -/
theorem witness_FloatSumIsRoundedToNearestEven :
    FinitePattern binary32 0x7F7FFFFF ∧ FinitePattern binary32 0x80000000 ∧ FinitePattern binary32 0x4B800001 ∧
      FinitePattern binary16 0xFBFF ∧ FinitePattern binary64 0x7FEFFFFFFFFFFFFF ∧ FinitePattern ⟨2, 1⟩ 5 ∧
      binary32.value 0x3F800000 + binary32.value 0xBF800000 = 0 ∧ binary16.isInf 0xFC00 = true ∧
      binary16.isNaN 0x7E00 = true ∧ binary16.isNaN 0x3C00 = false := by
  unfold FinitePattern
  decide +kernel

/-- `F32AdditionFlushesSubnormals`: the least and the greatest subnormal. -/
theorem witness_F32AdditionFlushesSubnormals :
    binary32.isSubnormal (0x00000001#32).toNat = true ∧ binary32.isSubnormal (0x807FFFFF#32).toNat = true ∧
      binary32.isSubnormal (0x00800000#32).toNat = false ∧ binary32.isNaN (0x7F800000#32).toNat = false := by
  decide +kernel

/-- `HalfMinMaxOrderNumerically`: two negative numbers, an infinity and the greatest finite number. -/
theorem witness_HalfMinMaxOrderNumerically :
    halfIsNaN 0xFC00#16 = false ∧ halfIsNaN 0x7BFF#16 = false ∧
      binary16.value (0xC000#16).toNat < binary16.value (0xBC00#16).toNat ∧
      binary16.value (0x7BFF#16).toNat < binary16.value (0x7C00#16).toNat ∧
      binary16.value (0x8001#16).toNat < binary16.value (0x0000#16).toNat := by
  decide +kernel

/-- The statement of the witnesses below. -/
def sumText : String := "ATOM.ADD R0, [R2], R1;"

/-- `StepRunsTheDecodedInstruction`: the choice to run, with no event ahead of its turn; an instruction that goes on past a later event on
the next word; and one whose event is the second of the thread's events. -/
theorem witness_StepRunsTheDecodedInstruction :
    steppingThread (twoThreads sumText [⟨1, .run⟩]) = some 1 ∧
      (nextChoice (twoThreads sumText [⟨1, .run⟩])).act = .run ∧
      ((twoThreads sumText [⟨1, .run⟩]).threads[1]?.map fun th => (th.early, th.pc)) = some ([], 0) ∧
      (twoThreads sumText [⟨1, .run⟩]).launch.ilen = 1 ∧
      (twoThreads sumText [⟨1, .run⟩]).launch.program[0]? = some (text sumText) ∧
      decode (text sumText) = .ok (.addU32Ri plain (.r 0) (.r 2) 0#20 (.r 1)) ∧
      steppingThread (threeStatements [sumText] [wentAhead 1] [⟨0, .run⟩]) = some 0 ∧
      leaves (exec (.addU32Ri plain (.r 0) (.r 2) 0#20 (.r 1)) (runAs (threeStatements [sumText] [wentAhead 1] [⟨0, .run⟩]) 0))
        (fun s => s.thread.any fun th => th.fault.isNone) = true ∧
      overlap (wentAhead 1).address (wentAhead 1).bytes 0x1004#64 4 = false ∧
      [wentAhead 3, wentAhead 0] = [wentAhead 3] ++ wentAhead 0 :: [] ∧ (wentAhead 3).pc ≠ 0 ∧ (wentAhead 0).pc = 0 := by
  decide +kernel

/-- `OnlyThreadsThatCanStepDo`: a state that steps, and the reset state, that cannot. -/
theorem witness_OnlyThreadsThatCanStepDo :
    steppingThread (twoThreads sumText [⟨0, .run⟩]) = some 0 ∧ steppingThread State.reset = none := by
  decide +kernel

/-- The statement, run by thread 1 while thread 0 has faulted. -/
def besideFaulted : State :=
  { twoThreads sumText [⟨0, .run⟩] with
    threads := [{ smallThread [] with fault := some (.misalignedAddress, 1#64) },
      smallThread (writeReg (writeReg [] (.r 1) 2#32) (.r 2) 0x1000#32)] }

/-- The statements about a step: `StepTouchesOneThreadOnly`, `FaultedThreadNeverChanges`, `StepKeepsLaunchParameters`,
`StepKeepsThreadAttributes`, `OnlyAllocatedGlobalBytesEverChange`: a step that changes a byte, with a thread that has faulted. -/
theorem witness_step_statements :
    (∃ s', step besideFaulted = .next s' ∧ decide (readByte s'.mem 0x1000 ≠ readByte besideFaulted.mem 0x1000) = true) ∧
      ∃ th, besideFaulted.threads[0]? = some th ∧ th.fault ≠ none := by
  exact ⟨next_of_leaves (by decide +kernel), _, rfl, by simp⟩

/-- `StepKeepsCanonicalForm`: a state in canonical form that steps. -/
theorem witness_StepKeepsCanonicalForm : besideFaulted.wf ∧ ∃ s', step besideFaulted = .next s' := by
  obtain ⟨⟨s', h, -⟩, -⟩ := witness_step_statements
  refine ⟨⟨by unfold Memory.wf; decide +kernel, ?_⟩, s', h⟩
  intro th h
  simp only [besideFaulted, List.mem_cons, List.not_mem_nil, or_false] at h
  rcases h with rfl | rfl <;> (show storeWf _; decide +kernel)

/-- `ProgramOrderHoldsNothingBack`: a step in program order of a machine with no event outstanding. -/
theorem witness_ProgramOrderHoldsNothingBack :
    (∃ s', step { besideFaulted with launch := { besideFaulted.launch with ordering := .programOrder } } = .next s' ∧
        decide (s'.threads.length = 2) = true) ∧
      ∀ th ∈ besideFaulted.threads, th.early = [] := by
  refine ⟨next_of_leaves (by decide +kernel), ?_⟩
  intro th h
  simp only [besideFaulted, List.mem_cons, List.not_mem_nil, or_false] at h
  rcases h with rfl | rfl <;> rfl

/-- Two threads, both ready for one word. -/
def pairState : State :=
  { readyState with threads := [readyThread, smallThread (writeReg (writeReg [] (.r 2) 0x1008#32) (.r 4) 6#32)] }

/-- `TwoThreadsAddingToOneWordBothCount`: one thread by form SP, the other by form ABS. -/
theorem witness_TwoThreadsAddingToOneWordBothCount :
    Ready (.addU32Sp plain (.p 1) (.r 0) (.r 2) (.r 4)) { pairState with cur := 0 } readyThread ∧
      Ready (.addU32Abs plain (.r 0) 0x1008#20 (.r 4)) { pairState with cur := 1 }
        (smallThread (writeReg (writeReg [] (.r 2) 0x1008#32) (.r 4) 6#32)) ∧
      effectiveAddress (Instr.addU32Sp plain (.p 1) (.r 0) (.r 2) (.r 4)).record readyThread.regs = 0x1008#64 := by
  exact ⟨⟨rfl, by decide, by decide, by decide +kernel, by decide +kernel⟩,
    ⟨rfl, by decide, by decide, by decide +kernel, by decide +kernel⟩, by decide +kernel⟩

/-- `SecondCompareAndSwapFindsTheFirst`: both threads compare with 5, the word is 5, the first stores 7; forms RI and ABS. -/
theorem witness_SecondCompareAndSwapFindsTheFirst :
    (let th := smallThread (writeReg (writeReg (writeReg [] (.r 2) 0x1008#32) (.r 4) 5#32) (.r 5) 7#32)
     let s := { readyState with threads := [th, th] }
     Ready (.casU32Ri plain (.r 0) (.r 2) 0#20 (.r 4) (.r 5)) { s with cur := 0 } th ∧
       Ready (.casU32Abs plain (.r 0) 0x1008#20 (.r 4) (.r 5)) { s with cur := 1 } th ∧
       read32 s.mem 0x1008 = readReg th.regs (.r 4) ∧ readReg th.regs (.r 5) ≠ readReg th.regs (.r 4)) := by
  exact ⟨⟨rfl, by decide, by decide, by decide +kernel, by decide +kernel⟩,
    ⟨rfl, by decide, by decide, by decide +kernel, by decide +kernel⟩, by decide +kernel, by decide +kernel⟩

/-- A state of one thread with a program, and that thread. -/
def orderedState (w : List String) (th : Thread) : State :=
  { readyState with launch := { smallLaunch with program := w.map text }, threads := [th] }

/-- The instruction of `sumText`, and one on the next word that reads nothing it writes. -/
def sumHere : Instr := .addU32Ri plain (.r 0) (.r 2) 0#20 (.r 1)
def sumNext : Instr := .addU32Sp ⟨⟨false, .pt⟩, false, Opex.none⟩ (.p 3) (.r 0) (.r 4) (.r 1)

/-- `DeferringThenCompletingIsRunning`: both clauses, the second at the words 0x1008 and 0x100C, which touch, and with one Rd. -/
theorem witness_DeferringThenCompletingIsRunning :
    (let th := { readyThread with regs := writeReg readyThread.regs (.r 4) 0x100C#32 }
     let s := orderedState [sumText, "ATOM.ADD P3, R0, [R4], R1;"] th
     s.launch.ordering = .relaxed ∧ th.early = [] ∧ th.fault = none ∧ Ready sumHere s th ∧
       Ready sumNext (s.setThread { th with pc := 1 }) { th with pc := 1 } ∧
       fetchText s.launch 0 = some (text sumText) ∧ fetchText s.launch 1 = some (text "ATOM.ADD P3, R0, [R4], R1;") ∧
       Apart (effectiveAddress sumHere.record th.regs) 4 (effectiveAddress sumNext.record th.regs) 4) ∧
      decode (text sumText) = .ok sumHere ∧ decode (text "ATOM.ADD P3, R0, [R4], R1;") = .ok sumNext ∧
      ¬Reads sumNext.record sumHere.record := by
  refine ⟨⟨rfl, rfl, rfl, ⟨rfl, by decide, by decide, by decide +kernel, by decide +kernel⟩,
    ⟨rfl, by decide, by decide, by decide +kernel, by decide +kernel⟩, rfl, rfl, .inr (by decide +kernel)⟩,
    by decide +kernel, by decide +kernel, ?_⟩
  simp [Reads, sumHere, sumNext, Instr.record, Addr.base, plain, Sz.bytes]

/-- A statement on the doubleword at 0x1008, which writes the pair R0 and P3, one on its upper word, one that reads the pair R0 and one
guarded by P3. -/
def orderTexts : List String :=
  ["ATOM.ADD.U64 P3, R0, [R2], R4;", "ATOM.ADD R6, [R2 + 4], R4;", "ATOM.EXCH.U64 RZ, [0x1010], R0;",
    "@P3 ATOM.EXCH RZ, [0x1010], R9;", "@!P3 ATOM.EXCH R8, [R0 + 0], R9;", "ATOM.DEC R7, [0x1018], R9;"]

/-- What is found before each of them, each older one still to come: the pc, the registers and predicates still to be written, and the
accesses whose address is known. -/
theorem witness_views :
    ((List.range 6).map fun k =>
        (viewAhead (orderedState orderTexts readyThread).launch readyThread k).map fun v => (v.regs, v.preds, v.accesses)) =
      [some ([], [], []), some ([0, 1], [3], [(0x1008#64, 8)]), some ([6, 0, 1], [3], [(0x100C#64, 4), (0x1008#64, 8)]),
        some ([6, 0, 1], [3], [(0x1010#64, 8), (0x100C#64, 4), (0x1008#64, 8)]),
        some ([6, 0, 1], [3], [(0x1010#64, 8), (0x100C#64, 4), (0x1008#64, 8)]),
        some ([8, 6, 0, 1], [3], [(0x1010#64, 8), (0x100C#64, 4), (0x1008#64, 8)])] := by
  decide +kernel

/-- The instruction at each of them, and whether the thread comes to execute it, with no event of it ahead of its turn. -/
theorem witness_instructions_ahead :
    ((List.range 6).map fun k =>
        (viewAhead (orderedState orderTexts readyThread).launch readyThread k).bind fun v =>
          (instrAt (orderedState orderTexts readyThread).launch v.thread.pc).map fun i =>
            (i, active (orderedState orderTexts readyThread).launch v.thread i.record, v.thread.taken.isNone)) =
      [some (.addU64Sp plain (.p 3) (.r 0) (.r 2) (.r 4), true, true), some (.addU32Ri plain (.r 6) (.r 2) 4#20 (.r 4), true, true),
        some (.exchU64Abs plain .rz 0x1010#20 (.r 0), true, true),
        some (.exchU32Abs ⟨⟨false, .p 3⟩, false, Opex.none⟩ .rz 0x1010#20 (.r 9), false, true),
        some (.exchU32Ri ⟨⟨true, .p 3⟩, false, Opex.none⟩ (.r 8) (.r 0) 0#20 (.r 9), true, true),
        some (.decU32Abs plain (.r 7) 0x1018#20 (.r 9), true, true)] := by
  decide +kernel

/-- `OverlappingEventsStayInProgramOrder`, first clause: j is 0 and k is 1, and the word is the last four bytes of the doubleword; the
second: a later event on that word went ahead; the third: so it did past the instruction at the pc. -/
theorem witness_OverlappingEventsStayInProgramOrder :
    ¬Apart 0x1008#64 8 0x100C#64 4 ∧ baseRegs (Instr.addU64Sp plain (.p 3) (.r 0) (.r 2) (.r 4)).record = [2] ∧
      (let th := { readyThread with early := [⟨2, 0x100C#64, 4, [], []⟩] }
       let s := orderedState orderTexts th
       s.thread = some th ∧ viewAhead s.launch th 0 = some ⟨th, [], [], []⟩ ∧
         instrAt s.launch 0 = some (.addU64Sp plain (.p 3) (.r 0) (.r 2) (.r 4)) ∧
         effectiveAddress (Instr.addU64Sp plain (.p 3) (.r 0) (.r 2) (.r 4)).record th.regs = 0x1008#64 ∧
         fetchText s.launch th.pc = some (text "ATOM.ADD.U64 P3, R0, [R2], R4;") ∧
         decode (text "ATOM.ADD.U64 P3, R0, [R2], R4;") = .ok (.addU64Sp plain (.p 3) (.r 0) (.r 2) (.r 4)) ∧
         Ready (.addU64Sp plain (.p 3) (.r 0) (.r 2) (.r 4)) s th) := by
  refine ⟨by unfold Apart; decide, by decide, ?_⟩
  exact ⟨rfl, rfl, by decide +kernel, by decide +kernel, rfl, by decide +kernel,
    ⟨rfl, by decide, by decide, by decide +kernel, by decide +kernel⟩⟩

/-- `ReaderOfAnOutstandingResultWaits`: readers of the upper half of the pair, of the predicate, and of the base register. -/
theorem witness_ReaderOfAnOutstandingResultWaits :
    (let I := (Instr.addU64Sp plain (.p 3) (.r 0) (.r 2) (.r 4)).record
     Reads (Instr.exchU64Abs plain .rz 0x1010#20 (.r 0)).record I ∧ Reads (Instr.exchU32Abs plain .rz 0x1010#20 (.r 1)).record I ∧
       Reads (Instr.exchU32Abs ⟨⟨false, .p 3⟩, false, Opex.none⟩ .rz 0x1010#20 (.r 9)).record I ∧
       Reads (Instr.exchU32Ri ⟨⟨true, .p 3⟩, false, Opex.none⟩ (.r 8) (.r 0) 0#20 (.r 9)).record I) := by
  exact ⟨.inr ⟨0, 1, rfl, .inr ⟨rfl, rfl⟩, .inr (.inr (.inr (.inl ⟨rfl, 0, rfl, .inl rfl⟩)))⟩,
    .inr ⟨0, 1, rfl, .inr ⟨rfl, rfl⟩, .inl rfl⟩, .inl ⟨3, .r 2, rfl, rfl⟩, .inl ⟨3, .r 2, rfl, rfl⟩⟩

/-- `YoungerEventMayTakeEffectFirst`: the last statement, past five, one of which waits for its address. -/
theorem witness_YoungerEventMayTakeEffectFirst :
    (viewAhead (orderedState orderTexts readyThread).launch readyThread 5).any (fun v =>
      let s := orderedState orderTexts readyThread
      let i := Instr.decU32Abs plain (.r 7) 0x1018#20 (.r 9)
      let ea := effectiveAddress i.record v.thread.regs
      decide (s.launch.ordering = .relaxed) && decide (instrAt s.launch v.thread.pc = some i) && decide (i.record.op ≠ .safeAdd) &&
        i.wf s.launch.numGpr s.launch.spa && active s.launch v.thread i.record && decide (applicableErrors s.launch ea 4 = []) &&
        !sparseAt s.launch ea && v.thread.early.isEmpty && v.regs.all (fun r => !(sourceRegs i.record).contains r) &&
        decide (i.record.common.guard.pg = .pt) && v.accesses.all (fun a => !overlap a.1 a.2 ea 4)) = true := by
  decide +kernel

/-- `InstructionsBetweenLeaveTheirResultsToBeWritten`: its cases are those of the views above, and one whose event went ahead, one that
raises an error, and the end of the text. -/
theorem witness_InstructionsBetweenLeaveTheirResultsToBeWritten :
    (let th := { readyThread with early := [wentAhead 0] }
     let L := { smallLaunch with program := [text sumText, text "ATOM.ADD R0, [R2 + 2], R1;"] }
     (viewAhead L th 1).map (fun v => (readReg v.thread.regs (.r 0), v.regs, v.accesses)) = some (7#32, [], []) ∧
       (viewAhead L th 1).bind (fun v => instrAt L v.thread.pc) = some (.addU32Ri plain (.r 0) (.r 2) 2#20 (.r 1)) ∧
       viewAhead L th 2 = none ∧ viewAhead { L with program := [text sumText] } th 2 = none) := by
  decide +kernel

end Sys2Proof.Tests
end

section
/-!
PROOFS. The statements of 10_state.md: registers, pairs and predicates, the reset values, what an ATOM that performs its event leaves
alone, and what no step changes.
-/

namespace Sys2Proof.Proofs

open Sys2Proof.Machine Sys2Proof.Claims

variable {I : AtomInstr} {i : Instr} {L : Launch} {s s' : State} {th : Thread} {ea : DWord} {n a : Nat}

/-! ### Registers, predicates, reset -/

/-- Settles O28: the laws of RZ, and of a read after a write. -/
theorem rzReadsZeroAndDiscardsWrites : Obligations.RzReadsZeroAndDiscardsWrites := by
  intro regs v w n k
  refine ⟨readReg_rz regs, readPair_rz regs, writeReg_rz regs v, writePair_rz regs w, ?_, fun hk => ?_⟩
  · rw [readReg_writeReg, if_pos rfl]
  · rw [readReg_writeReg, if_neg hk]

/-- A pair is the next register in front of the lower-numbered one (R12). -/
theorem readPair_eq_append (regs : Store 32) (n : Nat) :
    readPair regs (.r n) = readReg regs (.r (n + 1)) ++ readReg regs (.r n) := rfl

/-- The lower-numbered register of a pair that was written holds bits 31 to 0 (R12). -/
theorem readReg_writePair_low (regs : Store 32) (n : Nat) (v : DWord) :
    readReg (writePair regs (.r n) v) (.r n) = v.extractLsb' 0 32 := by
  rw [readReg_writePair, if_neg (by omega), if_pos rfl]

/-- The next register of a pair that was written holds bits 63 to 32 (R12). -/
theorem readReg_writePair_high (regs : Store 32) (n : Nat) (v : DWord) :
    readReg (writePair regs (.r n) v) (.r (n + 1)) = v.extractLsb' 32 32 := by
  rw [readReg_writePair, if_pos rfl]

/-- Two words side by side as a number. -/
theorem toNat_append_words (high low : Word) : (high ++ low).toNat = high.toNat * 2 ^ 32 + low.toNat := by
  rw [BitVec.toNat_append, ← Nat.shiftLeft_add_eq_or_of_lt low.isLt, Nat.shiftLeft_eq]

/-- Settles O29: the halves by arithmetic, and the pair put together again from them. -/
theorem pairHalvesAreLowThenHigh : Obligations.PairHalvesAreLowThenHigh := by
  intro regs v n
  refine ⟨?_, ?_, ?_, ?_⟩
  · rw [readPair_eq_append, toNat_append_words]
  · rw [readReg_writePair_low, BitVec.extractLsb'_toNat, Nat.shiftRight_zero]
  · have hv : v.toNat / 2 ^ 32 < 2 ^ 32 := by have := v.isLt; omega
    rw [readReg_writePair_high, BitVec.extractLsb'_toNat, Nat.shiftRight_eq_div_pow, Nat.mod_eq_of_lt hv]
  · rw [readPair_eq_append, readReg_writePair_high, readReg_writePair_low, dword_of_words]

/-- Settles O30: the laws of PT, and of a read after a write. -/
theorem ptReadsTrueAndDiscardsWrites : Obligations.PtReadsTrueAndDiscardsWrites := by
  intro preds b k j
  refine ⟨readPred_pt preds, writePred_pt preds b, ?_, fun hj => ?_⟩
  · rw [readPred_writePred, if_pos rfl]
  · rw [readPred_writePred, if_neg hj]

/-- Settles O52: the one thread at reset is `Thread.reset`, and the launch is `Launch.reset`. -/
theorem resetValuesOfTheSpec : Obligations.ResetValuesOfTheSpec := by
  refine ⟨fun th hth => ?_, rfl, rfl⟩
  obtain rfl : th = Thread.reset := List.mem_singleton.mp hth
  exact ⟨rfl, rfl, readReg_rz _, readPred_pt _⟩

/-! ### What performing an event leaves alone -/

/-- Ps, where the form has one that is not PT, holds the status written (R151). -/
theorem readPred_writePs_same {k : Fin 7} {ra : Reg} (h : I.addr = .sp (.p k) ra) (preds : Vector Bool 7) (b : Bool) :
    readPred (writePs I preds b) (.p k) = b := by
  simp only [writePs, h, readPred_writePred, if_true]

/-- A predicate that is not Ps keeps its value. -/
theorem readPred_writePs_other {k : Fin 7} (h : ∀ ra, I.addr ≠ .sp (.p k) ra) (preds : Vector Bool 7) (b : Bool) :
    readPred (writePs I preds b) (.p k) = readPred preds (.p k) := by
  unfold writePs
  split
  · next ps ra ha =>
    cases ps with
    | pt => rw [writePred_pt]
    | p j =>
      have hkj : k ≠ j := fun e => h ra (e ▸ ha)
      rw [readPred_writePred, if_neg hkj]
  · rfl

/-- Every register but those of Rd, for 8 bytes a pair, holds in `after` what it holds in `before`. -/
def KeepsOtherRegs (I : AtomInstr) (before after : Store 32) : Prop :=
  ∀ k, (∀ n, I.rd = .r n → k ≠ n ∧ (I.sz.bytes = 8 → k ≠ n + 1)) → readReg after (.r k) = readReg before (.r k)

/-- Every byte outside the access at `ea` is in `after` what it is in `before`. -/
def KeepsOtherBytes (I : AtomInstr) (ea : DWord) (before after : Memory) : Prop :=
  ∀ a, a < ea.toNat ∨ ea.toNat + I.sz.bytes ≤ a → readByte after a = readByte before a

/-- The state `s'` is `s` after the thread `th` performed an event of `I`: memory outside the access and the registers but Rd are as
they were, and the thread is retired. What the event stores and returns is left open. -/
def Performs (I : AtomInstr) (s : State) (th : Thread) (s' : State) : Prop :=
  ∃ (regs : Store 32) (mem : Memory),
    s' = (s.setMem mem).setThread
      (retire s.launch I th regs (sparseAt s.launch (effectiveAddress I th.regs))) ∧
    KeepsOtherRegs I th.regs regs ∧ KeepsOtherBytes I (effectiveAddress I th.regs) s.mem mem

/-- A write of Rd on 4 bytes changes Rd alone. -/
theorem writeReg_keepsOtherRegs (I : AtomInstr) (regs : Store 32) (v : Word) :
    KeepsOtherRegs I regs (writeReg regs I.rd v) := by
  intro k hk
  cases hrd : I.rd with
  | rz => rw [writeReg_rz]
  | r n => rw [readReg_writeReg, if_neg (hk n hrd).1]

/-- A write of Rd on 8 bytes changes the pair of Rd alone. -/
theorem writePair_keepsOtherRegs (hb : I.sz.bytes = 8) (regs : Store 32) (v : DWord) :
    KeepsOtherRegs I regs (writePair regs I.rd v) := by
  intro k hk
  cases hrd : I.rd with
  | rz => rw [writePair_rz]
  | r n =>
    obtain ⟨hlow, hhigh⟩ := hk n hrd
    rw [readReg_writePair, if_neg (hhigh hb), if_neg hlow]

/-- The event on 4 bytes is one. -/
theorem perform32_performs (hb : I.sz.bytes = 4) (f : Word → Word → Word → Word) (s : State) (th : Thread) :
    Performs I s th (perform32 I f s th (effectiveAddress I th.regs)) :=
  ⟨_, _, rfl, writeReg_keepsOtherRegs I _ _, fun _ ha => readByte_write32_other (by omega)⟩

/-- The event on 8 bytes is one. -/
theorem perform64_performs (hb : I.sz.bytes = 8) (f : DWord → DWord → DWord → DWord) (s : State) (th : Thread) :
    Performs I s th (perform64 I f s th (effectiveAddress I th.regs)) :=
  ⟨_, _, rfl, writePair_keepsOtherRegs hb _ _, fun _ ha => readByte_write64_other (by omega)⟩

/-- Every instruction but SAFEADD performs its event in a state that is ready for it. -/
theorem exec_ready_performs (hop : i.record.op ≠ .safeAdd) (h : Ready i s th) :
    ∃ s', exec i s = .next s' ∧ Performs i.record s th s' := by
  rcases exec_form i with ⟨hb, f, hf⟩ | ⟨hb, f, hf⟩ | ⟨hsafe, -⟩
  · exact ⟨_, (hf s).trans (atom32_ready h f), perform32_performs hb f s th⟩
  · exact ⟨_, (hf s).trans (atom64_ready h f), perform64_performs hb f s th⟩
  · exact absurd hsafe hop

/-- All that a next state of an instruction can be, the size of the event left open: the pc advanced, an error raised, an event
performed. -/
theorem exec_next_performs (h : exec i s = .next s') : ∃ th, s.thread = some th ∧
    (s' = s.setThread (advancePc s.launch th) ∨
      (∃ e es, s' = raiseError s th e es (effectiveAddress i.record th.regs)) ∨
      (Ready i s th ∧ Performs i.record s th s')) := by
  obtain ⟨-, th, hth, ⟨-, hpc⟩ | ⟨-, e, es, -, herr⟩ | ⟨hr, hev⟩⟩ := exec_next h
  · exact ⟨th, hth, .inl hpc⟩
  · exact ⟨th, hth, .inr (.inl ⟨e, es, herr⟩)⟩
  · refine ⟨th, hth, .inr (.inr ⟨hr, ?_⟩)⟩
    obtain ⟨hb, f, rfl⟩ | ⟨hb, f, rfl⟩ := hev
    · exact perform32_performs hb f s th
    · exact perform64_performs hb f s th

/-- An event leaves alone whatever is not of memory and not of the executing thread. -/
theorem performs_othersSame (h : Performs I s th s') : OthersSame s s' := by
  obtain ⟨regs, mem, rfl, -, -⟩ := h
  exact ⟨rfl, rfl, rfl, by simp, fun k hk => setThread_other (s := s.setMem mem) hk _⟩

/-- Settles O13: the next state is that of a performed event, and a page that is not sparse gives the status 0. -/
theorem atomChangesOnlyItsDestinations : Obligations.AtomChangesOnlyItsDestinations := by
  intro i s th hop hr
  obtain ⟨t, hexec, hperf⟩ := exec_ready_performs hop hr
  have hothers : OthersSame s t := performs_othersSame hperf
  obtain ⟨regs, mem, rfl, hregs, hmem⟩ := hperf
  obtain ⟨hth, -, -, -, hsparse⟩ := hr
  rw [hsparse] at hexec hothers
  refine ⟨_, _, hexec, setThread_thread (s := s.setMem mem) hth _, hregs, hmem, ?_, ?_,
    rfl, rfl, rfl, rfl, rfl, rfl, rfl, hothers⟩
  · exact fun k ra hps => readPred_writePs_same hps th.preds false
  · exact fun k hps => readPred_writePs_other hps th.preds false

/-! ### The attributes of a thread -/

/-- The pixel attributes and the scoreboards of a thread are those of another. -/
structure SameAttributes (th th' : Thread) : Prop where
  helper : th'.helper = th.helper
  killed : th'.killed = th.killed
  scoreboards : th'.scoreboards = th.scoreboards

/-- Whatever an instruction does, it replaces the executing thread by one with its attributes. -/
theorem exec_next_sameAttributes (h : exec i s = .next s') :
    ∃ th th', s.thread = some th ∧ s'.threads = s.threads.set s.cur th' ∧ SameAttributes th th' := by
  obtain ⟨th, hth, rfl | ⟨e, es, rfl⟩ | ⟨-, regs, mem, rfl, -, -⟩⟩ := exec_next_performs h
  · exact ⟨th, _, hth, rfl, ⟨rfl, rfl, rfl⟩⟩
  · exact ⟨th, _, hth, rfl, ⟨rfl, rfl, rfl⟩⟩
  · exact ⟨th, _, hth, rfl, ⟨rfl, rfl, rfl⟩⟩

/-- So does a thread that goes on at its pc. -/
theorem goOn_next_sameAttributes (hth : s.thread = some th) (h : goOn s th = .next s') :
    ∃ th', s'.threads = s.threads.set s.cur th' ∧ SameAttributes th th' := by
  obtain ⟨e, -, rfl⟩ | ⟨t, i, -, -, -, hexec, -⟩ := goOn_next h
  · exact ⟨_, rfl, ⟨rfl, rfl, rfl⟩⟩
  · obtain ⟨th₀, th', hth₀, hset, hsame⟩ := exec_next_sameAttributes hexec
    obtain rfl : th₀ = th := Option.some.inj (hth₀.symm.trans hth)
    exact ⟨th', hset, hsame⟩

/-- Every step replaces one thread, the one that steps, by one with its attributes. -/
theorem step_next_sameAttributes (h : step s = .next s') :
    ∃ t th th', s.threads[t]? = some th ∧ s'.threads = s.threads.set t th' ∧ SameAttributes th th' := by
  obtain ⟨t, th, -, hth, -, hgo | ⟨k, v, i, s₁, done, -, -, -, -, -, -, rfl⟩⟩ := step_next h
  · obtain ⟨th', hset, hsame⟩ := goOn_next_sameAttributes ((runAs_thread s t).trans hth) hgo
    exact ⟨t, th, th', hth, by simpa using hset, hsame⟩
  · exact ⟨t, th, { th with early := th.early ++ [earlyOf i v.thread done] }, hth, by simp, ⟨rfl, rfl, rfl⟩⟩

/-- Settles O48: the thread asked for is the one that a step replaces, or another, which it leaves. -/
theorem stepKeepsThreadAttributes : Obligations.StepKeepsThreadAttributes := by
  intro s s' u th th' h hth hth'
  obtain ⟨t, th₀, th₁, ht, hset, hsame⟩ := step_next_sameAttributes h
  rw [hset] at hth'
  by_cases htu : t = u
  · subst htu
    obtain rfl : th₀ = th := Option.some.inj (ht.symm.trans hth)
    have hlt : t < s.threads.length := (List.getElem?_eq_some_iff.mp ht).1
    obtain rfl : th₁ = th' := by simpa [hlt] using hth'
    exact ⟨hsame.helper, hsame.killed, hsame.scoreboards⟩
  · rw [List.getElem?_set_ne htu, hth] at hth'
    cases hth'
    exact ⟨rfl, rfl, rfl⟩

/-! ### The bytes that a step can change -/

/-- The test of the regions says that the address lies in one of them. -/
theorem inRegions_iff {rs : List Region} : inRegions rs a = true ↔ InSet rs a := by
  simp [inRegions, InSet]

/-- The bytes of an access are those from its address on. -/
theorem mem_accessBytes : a ∈ accessBytes ea n ↔ ea.toNat ≤ a ∧ a < ea.toNat + n := by
  simp only [accessBytes, List.mem_map, List.mem_range]
  constructor
  · rintro ⟨k, hk, rfl⟩
    omega
  · rintro ⟨hle, hlt⟩
    exact ⟨a - ea.toNat, by omega, by omega⟩

/-- Where no error applies, the access meets no window, is aligned and is allocated (R33, R34, R35). -/
theorem applicableErrors_eq_nil_iff : applicableErrors L ea n = [] ↔
    inWindow L ea n = false ∧ misaligned ea n = false ∧ outOfRange L ea n = false := by
  simp [applicableErrors]

/-- The address is allocated and lies in neither window: it is one that an ATOM may access. -/
def Accessible (L : Launch) (a : Nat) : Prop := InSet L.allocated a ∧ ¬InSet L.localWindow a ∧ ¬InSet L.sharedWindow a

/-- Every byte of an access that is allowed is accessible. -/
theorem accessible_of_accessAllowed (h : accessAllowed L ea n) (ha : a ∈ accessBytes ea n) : Accessible L a := by
  obtain ⟨hwindow, -, hrange⟩ := applicableErrors_eq_nil_iff.mp h.1
  simp only [inWindow, outOfRange, List.any_eq_false, Bool.or_eq_true, Bool.not_eq_true', Bool.not_eq_false, inRegions_iff,
    not_or] at hwindow hrange
  obtain ⟨hlocal, hshared⟩ := hwindow a ha
  exact ⟨hrange a ha, hlocal, hshared⟩

/-- A byte that an instruction changes is accessible: it is one of the access of a performed event. -/
theorem exec_changes_accessible (h : exec i s = .next s') (hne : readByte s'.mem a ≠ readByte s.mem a) :
    Accessible s.launch a := by
  obtain ⟨th, -, rfl | ⟨e, es, rfl⟩ | ⟨⟨-, -, -, hallowed⟩, regs, mem, rfl, -, hmem⟩⟩ := exec_next_performs h
  · exact absurd rfl hne
  · exact absurd rfl hne
  · refine accessible_of_accessAllowed hallowed (mem_accessBytes.mpr ?_)
    by_contra hout
    exact hne (hmem a (by omega))

/-- A byte that changes where a thread goes on at its pc is accessible. -/
theorem goOn_changes_accessible (h : goOn s th = .next s') (hne : readByte s'.mem a ≠ readByte s.mem a) :
    Accessible s.launch a := by
  obtain ⟨e, -, rfl⟩ | ⟨t, i, -, -, -, hexec, -⟩ := goOn_next h
  · exact absurd rfl hne
  · exact exec_changes_accessible hexec hne

/-- Settles O49: a step goes on at a pc, or lets one instruction's event take effect ahead of its turn; in both it is `exec` that
changes memory. -/
theorem onlyAllocatedGlobalBytesEverChange : Obligations.OnlyAllocatedGlobalBytesEverChange := by
  intro s s' a h hne
  obtain ⟨t, th, -, -, -, hgo | ⟨k, v, i, s₁, done, -, -, -, -, hexec, -, rfl⟩⟩ := step_next h
  · have hacc := goOn_changes_accessible hgo (a := a) (by simpa using hne)
    rwa [runAs_launch] at hacc
  · have hacc := exec_changes_accessible hexec (a := a) (by simpa using hne)
    rwa [setThread_launch, runAs_launch] at hacc

end Sys2Proof.Proofs
end

section
/-!
PROOFS. The statements of 20_memory.md about memory and the launch alone: the bytes of words and doublewords, the canonical form, the
checks of an access, and what every step keeps.
-/

namespace Sys2Proof.Proofs

open Sys2Proof.Machine Sys2Proof.Claims

variable {i : Instr} {L : Launch} {s s' : State} {th : Thread} {ea : DWord} {n a k : Nat} {m m' : Memory} {w : Nat}

/-! ### The canonical form -/

/-- A replaced thread with canonical registers keeps the state canonical. -/
theorem setThread_wf (h : s.wf) (hth : th.wf) : (s.setThread th).wf :=
  ⟨h.1, fun th' hth' => (mem_setThread hth').elim (fun e => e ▸ hth) (h.2 th')⟩

/-- A replaced memory that is canonical keeps the state canonical. -/
theorem setMem_wf (h : s.wf) (hm : m.wf) : (s.setMem m).wf := ⟨hm, h.2⟩

/-- Whatever an instruction does keeps the canonical form. -/
theorem exec_next_wf (h : exec i s = .next s') (hs : s.wf) : s'.wf := by
  obtain ⟨-, th, hth, hcase⟩ := exec_next h
  have hregs : th.wf := hs.2 th (thread_mem hth)
  obtain ⟨-, rfl⟩ | ⟨-, e, es, -, rfl⟩ | ⟨-, ⟨-, f, rfl⟩ | ⟨-, f, rfl⟩⟩ := hcase
  · exact setThread_wf hs hregs
  · exact setThread_wf (th := { th with fault := _ }) hs hregs
  · exact setThread_wf (setMem_wf hs (write32_wf _ _ hs.1)) (writeReg_wf _ _ hregs)
  · exact setThread_wf (setMem_wf hs (write64_wf _ _ hs.1)) (writePair_wf _ _ hregs)

/-- A thread that goes on at its pc keeps the canonical form: it settles an event, or runs an instruction. -/
theorem goOn_next_wf (hth : s.thread = some th) (h : goOn s th = .next s') (hs : s.wf) : s'.wf := by
  obtain ⟨e, -, rfl⟩ | ⟨t, i, -, -, -, hexec, -⟩ := goOn_next h
  · exact setThread_wf hs (writeRegs_wf e.regs (hs.2 th (thread_mem hth)))
  · exact exec_next_wf hexec hs

/-- Settles O50: a thread goes on at its pc, or an instruction runs on what the view ahead shows, whose registers are canonical. -/
theorem stepKeepsCanonicalForm : Obligations.StepKeepsCanonicalForm := by
  intro s s' hs h
  obtain ⟨t, th, -, hth, -, hcase⟩ := step_next h
  have hrun : (runAs s t).wf := by simpa [State.wf] using hs
  have hregs : th.wf := hs.2 th (List.mem_of_getElem? hth)
  obtain hgo | ⟨k, v, i, s₁, done, -, hv, -, -, hexec, -, rfl⟩ := hcase
  · exact goOn_next_wf ((runAs_thread s t).trans hth) hgo hrun
  · have hview : v.thread.wf := (passMany_grows hv).wf hregs
    have hs₁ : s₁.wf := exec_next_wf hexec (setThread_wf hrun hview)
    exact setThread_wf (th := { th with early := _ }) (setMem_wf hrun hs₁.1) hregs

/-- A canonical store lists exactly the numbers that do not read zero, with what they read. -/
theorem mem_iff_of_storeWf {m : Store w} (h : storeWf m) (a : Nat) (v : BitVec w) :
    (a, v) ∈ m ↔ v ≠ 0#w ∧ storeGet a m = v := by
  induction m with
  | nil => exact ⟨nofun, fun ⟨hv, hget⟩ => absurd hget.symm hv⟩
  | cons p t ih =>
    obtain ⟨b, x⟩ := p
    obtain ⟨hsorted, hne⟩ := h
    obtain ⟨hhead, htail⟩ := List.pairwise_cons.mp hsorted
    have hx : x ≠ 0#w := hne (b, x) List.mem_cons_self
    have ih := ih ⟨htail, fun q hq => hne q (List.mem_cons_of_mem _ hq)⟩
    rw [List.mem_cons, Prod.mk.injEq, storeGet_cons]
    by_cases hba : b = a
    · have hnot : (a, v) ∉ t := fun hmem => by
        have : b < a := hhead _ hmem
        omega
      simp only [hba, hnot, or_false, true_and, if_true, eq_comm (a := v)]
      exact ⟨fun e => ⟨e ▸ hx, e⟩, And.right⟩
    · rw [if_neg hba, ih]
      simp [Ne.symm hba]

/-- Canonical stores that read alike at every number are the same data. -/
theorem eq_of_storeGet_eq {m m' : Store w} (h : storeWf m) (h' : storeWf m')
    (hget : ∀ a, storeGet a m = storeGet a m') : m = m' := by
  have nodup {l : Store w} (hl : storeWf l) : l.Nodup := hl.1.imp fun hlt e => absurd (e ▸ hlt) (Nat.lt_irrefl _)
  have hperm : m.Perm m' := (List.perm_ext_iff_of_nodup (nodup h) (nodup h')).mpr fun ⟨a, v⟩ => by
    rw [mem_iff_of_storeWf h, mem_iff_of_storeWf h', hget]
  exact hperm.eq_of_pairwise (fun p q _ _ hpq hqp => absurd hpq (Nat.lt_asymm hqp)) h.1 h'.1

/-- Settles O34: canonical stores are determined by what they read, and writes keep the form. -/
theorem canonicalMemoryIsDeterminedByItsBytes : Obligations.CanonicalMemoryIsDeterminedByItsBytes := by
  intro m m' h h' hread
  exact ⟨eq_of_storeGet_eq h h' hread, fun a v w => ⟨write32_wf a v h, write64_wf a w h⟩⟩

/-! ### What every step keeps -/

/-- No instruction changes a launch parameter. -/
theorem exec_next_launch (h : exec i s = .next s') : s'.launch = s.launch := by
  obtain ⟨th, -, rfl | ⟨e, es, rfl⟩ | ⟨-, regs, mem, rfl, -, -⟩⟩ := exec_next_performs h <;> rfl

/-- Settles O47: only `exec` and the settling of an event make a next state, and neither touches the launch. -/
theorem stepKeepsLaunchParameters : Obligations.StepKeepsLaunchParameters := by
  intro s s' h
  obtain ⟨t, th, -, -, -, hgo | ⟨k, v, i, s₁, done, -, -, -, -, -, -, rfl⟩⟩ := step_next h
  · obtain ⟨e, -, rfl⟩ | ⟨w, i, -, -, -, hexec, -⟩ := goOn_next hgo
    · exact runAs_launch s t
    · exact (exec_next_launch hexec).trans (runAs_launch s t)
  · exact runAs_launch s t

/-- An instruction leaves the events ahead of their turn as they are, those of the executing thread included. -/
theorem exec_next_early (h : exec i s = .next s') :
    ∃ th th', s.thread = some th ∧ s'.threads = s.threads.set s.cur th' ∧ th'.early = th.early := by
  obtain ⟨th, hth, rfl | ⟨e, es, rfl⟩ | ⟨-, regs, mem, rfl, -, -⟩⟩ := exec_next_performs h <;>
    exact ⟨th, _, hth, rfl, rfl⟩

/-- Settles O58: in program order a thread goes on at its pc, and without an event ahead of its turn that is `exec`. -/
theorem programOrderHoldsNothingBack : Obligations.ProgramOrderHoldsNothingBack := by
  intro s s' horder hnone h th' hth'
  obtain ⟨t, th, -, hth, -, hcase⟩ := step_next h
  have hearly : th.early = [] := hnone th (List.mem_of_getElem? hth)
  obtain hgo | ⟨k, v, i, s₁, done, hrelaxed, -⟩ := hcase
  · obtain ⟨e, htaken, -⟩ | ⟨w, i, -, -, -, hexec, -⟩ := goOn_next hgo
    · exact absurd (taken_some htaken).1 (by simp [hearly])
    · obtain ⟨th₀, th₁, hth₀, hset, hsame⟩ := exec_next_early hexec
      obtain rfl : th = th₀ := by simpa [hth] using hth₀
      rw [hset, runAs_threads] at hth'
      obtain hmem | rfl := List.mem_or_eq_of_mem_set hth'
      · exact hnone th' hmem
      · exact hsame.trans hearly
  · exact absurd (horder.symm.trans hrelaxed) (by decide)

/-! ### The checks of an access -/

/-- Some byte of an access has a property exactly where one of its offsets leads to such a byte. -/
theorem any_accessBytes {p : Nat → Bool} :
    (accessBytes ea n).any p = true ↔ ∃ k, k < n ∧ p (ea.toNat + k) = true := by
  simp [accessBytes]

/-- An error is among those that apply exactly where its cause is there (R33, R34, R35). -/
theorem mem_applicableErrors_iff {e : ErrorKind} : e ∈ applicableErrors L ea n ↔ Applies e L ea n := by
  have hwindow : inWindow L ea n = true ↔ Applies .invalidAddressSpace L ea n := by
    simp only [inWindow, any_accessBytes, Bool.or_eq_true, inRegions_iff, Applies]
  have haligned : misaligned ea n = true ↔ Applies .misalignedAddress L ea n := by
    simp only [misaligned, decide_eq_true_eq, Applies]
  have hrange : outOfRange L ea n = true ↔ Applies .addressOutOfRange L ea n := by
    simp only [outOfRange, any_accessBytes, Bool.not_eq_true', ← Bool.not_eq_true, inRegions_iff, Applies]
  cases e with
  | invalidAddressSpace => rw [← hwindow]; simp [applicableErrors]
  | misalignedAddress => rw [← haligned]; simp [applicableErrors]
  | addressOutOfRange => rw [← hrange]; simp [applicableErrors]

/-- Settles O19: the list is empty exactly where no error is in it. -/
theorem checksPassWhenNoErrorApplies : Obligations.ChecksPassWhenNoErrorApplies := by
  intro L ea n
  refine ⟨?_, fun e => mem_applicableErrors_iff⟩
  rw [List.eq_nil_iff_forall_not_mem]
  exact forall_congr' fun e => not_congr mem_applicableErrors_iff

/-! ### The bytes of a word and of a doubleword -/

/-- The bits from 8 on of bits put before a byte are those of the bits before it. -/
theorem extractLsb'_append_byte (j : Nat) (high : BitVec w) (low : Byte) :
    (high ++ low).extractLsb' (8 + j) 8 = high.extractLsb' j 8 := by
  rw [BitVec.extractLsb'_append_eq_of_le (by omega), Nat.add_sub_cancel_left]

/-- The lowest 8 bits of bits put before a byte are that byte. -/
theorem extractLsb'_append_byte_low (high : BitVec w) (low : Byte) : (high ++ low).extractLsb' 0 8 = low := by
  rw [BitVec.extractLsb'_append_eq_of_add_le (by omega), BitVec.extractLsb'_eq_self]

/-- Byte k of a word read is the byte at the address plus k (R30). -/
theorem extractLsb'_read32 (hk : k < 4) : (read32 m a).extractLsb' (8 * k) 8 = readByte m (a + k) := by
  have hbyte := @extractLsb'_append_byte
  obtain rfl | rfl | rfl | rfl : k = 0 ∨ k = 1 ∨ k = 2 ∨ k = 3 := by omega
  · exact extractLsb'_append_byte_low _ _
  · exact (hbyte 0 _ _).trans (extractLsb'_append_byte_low _ _)
  · exact ((hbyte 8 _ _).trans (hbyte 0 _ _)).trans (extractLsb'_append_byte_low _ _)
  · exact ((hbyte 16 _ _).trans ((hbyte 8 _ _).trans (hbyte 0 _ _))).trans BitVec.extractLsb'_eq_self

/-- Byte k of a word written is at the address plus k (R30, R32). -/
theorem readByte_write32_add (hk : k < 4) (v : Word) :
    readByte (write32 m a v) (a + k) = v.extractLsb' (8 * k) 8 := by
  rw [readByte_write32]
  obtain rfl | rfl | rfl | rfl : k = 0 ∨ k = 1 ∨ k = 2 ∨ k = 3 := by omega
  all_goals simp

/-- Byte k of a doubleword read is the byte at the address plus k (R30). -/
theorem extractLsb'_read64 (hk : k < 8) : (read64 m a).extractLsb' (8 * k) 8 = readByte m (a + k) := by
  unfold read64
  obtain hlow | ⟨j, rfl⟩ : k < 4 ∨ ∃ j, k = 4 + j := by
    by_cases h : k < 4
    · exact .inl h
    · exact .inr ⟨k - 4, by omega⟩
  · rw [BitVec.extractLsb'_append_eq_of_add_le (by omega), extractLsb'_read32 hlow]
  · rw [BitVec.extractLsb'_append_eq_of_le (by omega), show 8 * (4 + j) - 32 = 8 * j by omega,
      extractLsb'_read32 (by omega), Nat.add_assoc]

/-- Byte k of a doubleword written is at the address plus k (R30, R32). -/
theorem readByte_write64_add (hk : k < 8) (v : DWord) :
    readByte (write64 m a v) (a + k) = v.extractLsb' (8 * k) 8 := by
  unfold write64
  by_cases hlow : k < 4
  · rw [readByte_write32_other (by omega), readByte_write32_add hlow, BitVec.extractLsb'_extractLsb'_of_le (by omega)]
  · obtain ⟨j, rfl⟩ : ∃ j, k = 4 + j := ⟨k - 4, by omega⟩
    rw [← Nat.add_assoc, readByte_write32_add (by omega)]
    apply BitVec.eq_of_getLsbD_eq
    intro b hb
    simp only [BitVec.getLsbD_extractLsb', hb, decide_true, Bool.true_and]
    rw [decide_eq_true (by omega), Bool.true_and]
    congr 1
    omega

/-- Settles O32: byte by byte, for each size. -/
theorem memoryIsLittleEndian : Obligations.MemoryIsLittleEndian := by
  intro m a b v w
  exact ⟨fun k hk => ⟨(extractLsb'_read32 hk).symm, readByte_write32_add hk v⟩,
    fun k hk => ⟨(extractLsb'_read64 hk).symm, readByte_write64_add hk w⟩, readByte_write32_other, readByte_write64_other⟩

/-- The word at the address of a written doubleword is its low half (R47). -/
theorem read32_write64_low (m : Memory) (a : Nat) (v : DWord) : read32 (write64 m a v) a = v.extractLsb' 0 32 := by
  unfold write64
  rw [read32_write32_other (by omega), read32_write32_same]

/-- The word after it is its high half (R47). -/
theorem read32_write64_high (m : Memory) (a : Nat) (v : DWord) : read32 (write64 m a v) (a + 4) = v.extractLsb' 32 32 := by
  unfold write64
  rw [read32_write32_same]

/-- Settles O33: the laws of a read where one wrote. -/
theorem readAfterWriteGivesTheValue : Obligations.ReadAfterWriteGivesTheValue := fun m a v w =>
  ⟨read32_write32_same m a v, read64_write64_same m a w, read32_write64_low m a w, read32_write64_high m a w⟩

end Sys2Proof.Proofs
end

section
/-!
PROOFS. The statements of 20_memory.md about the order of events: two threads on one word, what a thread finds past instructions whose
events are still to come, and which later events may and may not go ahead of these.
-/

namespace Sys2Proof.Proofs

open Sys2Proof.Machine Sys2Proof.Claims

variable {I J : AtomInstr} {i i' : Instr} {L : Launch} {s s' : State} {th : Thread} {v v' v'' : View} {j k : Nat}

/-! ### Two threads on one word -/

/-- An instruction is the one that its record stands for. -/
theorem record_toInstr? (i : Instr) : i.record.toInstr? = some i := by
  cases i <;> rfl

/-- ADD.U32 of every form adds on the word (R101). -/
theorem exec_of_addU32 (hop : i.record.op = .add) (hsz : i.record.sz = .u32) (s : State) :
    exec i s = atom32 i (fun m b _ => aluAdd m b) s := by
  have hi := record_toInstr? i
  simp only [AtomInstr.toInstr?, hop, hsz, Option.some.injEq] at hi
  split at hi <;> rw [← hi] <;> rfl

/-- CAS.U32 of every form compares and swaps on the word (R141). -/
theorem exec_of_casU32 (hop : i.record.op = .cas) (hsz : i.record.sz = .u32) (s : State) :
    exec i s = atom32 i aluCas s := by
  have hi := record_toInstr? i
  simp only [AtomInstr.toInstr?, hop, hsz, Option.some.injEq] at hi
  split at hi <;> rw [← hi] <;> rfl

/-- What an event on a word leaves: the word is the operation's result, Rd holds what stood there, and of the threads only the executing
one changes. -/
theorem exec_word {f : Word → Word → Word → Word} (hf : ∀ s, exec i s = atom32 i f s) (hr : Ready i s th) :
    let ea := (effectiveAddress i.record th.regs).toNat
    ∃ s' th', exec i s = .next s' ∧ s'.launch = s.launch ∧ s'.threads = s.threads.set s.cur th' ∧
      read32 s'.mem ea = f (read32 s.mem ea) (readReg th.regs i.record.rb) (readReg th.regs i.record.rc) ∧
      ∀ n, i.record.rd = .r n → readReg th'.regs (.r n) = read32 s.mem ea := by
  refine ⟨_, _, (hf s).trans (atom32_ready hr f), perform32_launch f _, perform32_threads f _, ?_, fun n hn => ?_⟩
  · rw [perform32_mem, read32_write32_same]
  · rw [retire_regs, hn, readReg_writeReg, if_pos rfl]

/-- A thread is as ready as it was after another thread has been replaced and memory has changed. -/
theorem ready_after_other {t : Nat} {th' : Thread} (hne : s.cur ≠ t) (hlaunch : s'.launch = s.launch)
    (hthreads : s'.threads = s.threads.set s.cur th') (hr : Ready i { s with cur := t } th) :
    Ready i { s' with cur := t } th := by
  obtain ⟨hth, hrest⟩ := hr
  refine ⟨?_, by simpa only [hlaunch] using hrest⟩
  simpa only [State.thread, hthreads, List.getElem?_set_ne hne] using hth

/-- Two threads that perform events on one word one after the other: the second finds there what the first stored (R36, R37). -/
theorem exec_on_one_word {t₁ t₂ : Nat} {th₁ th₂ : Thread} {i₁ i₂ : Instr} {f g : Word → Word → Word → Word} (hne : t₁ ≠ t₂)
    (hf : ∀ s, exec i₁ s = atom32 i₁ f s) (hg : ∀ s, exec i₂ s = atom32 i₂ g s)
    (h₁ : Ready i₁ { s with cur := t₁ } th₁) (h₂ : Ready i₂ { s with cur := t₂ } th₂)
    (hea : effectiveAddress i₁.record th₁.regs = effectiveAddress i₂.record th₂.regs) :
    let ea := (effectiveAddress i₁.record th₁.regs).toNat
    let new := f (read32 s.mem ea) (readReg th₁.regs i₁.record.rb) (readReg th₁.regs i₁.record.rc)
    ∃ s₁ s₂ r₁ r₂, exec i₁ { s with cur := t₁ } = .next s₁ ∧ exec i₂ { s₁ with cur := t₂ } = .next s₂ ∧
      s₂.threads[t₁]? = some r₁ ∧ s₂.threads[t₂]? = some r₂ ∧
      read32 s₂.mem ea = g new (readReg th₂.regs i₂.record.rb) (readReg th₂.regs i₂.record.rc) ∧
      (∀ n, i₁.record.rd = .r n → readReg r₁.regs (.r n) = read32 s.mem ea) ∧
      ∀ n, i₂.record.rd = .r n → readReg r₂.regs (.r n) = new := by
  intro ea new
  obtain ⟨s₁, r₁, hexec₁, hlaunch₁, hthreads₁, hmem₁, hrd₁⟩ := exec_word hf h₁
  obtain ⟨s₂, r₂, hexec₂, -, hthreads₂, hmem₂, hrd₂⟩ :=
    exec_word hg (ready_after_other (s := { s with cur := t₁ }) hne hlaunch₁ hthreads₁ h₂)
  have hlt₁ : t₁ < s.threads.length := (List.getElem?_eq_some_iff.mp h₁.1).1
  have hlt₂ : t₂ < s.threads.length := (List.getElem?_eq_some_iff.mp h₂.1).1
  simp only at hthreads₁ hthreads₂
  rw [← hea] at hmem₂ hrd₂
  rw [hmem₁] at hmem₂ hrd₂
  refine ⟨s₁, s₂, r₁, r₂, hexec₁, hexec₂, ?_, ?_, hmem₂, hrd₁, hrd₂⟩
  · rw [hthreads₂, List.getElem?_set_ne (Ne.symm hne), hthreads₁, List.getElem?_set_self hlt₁]
  · rw [hthreads₂, List.getElem?_set_self (by simpa [hthreads₁] using hlt₂)]

/-- Settles O53: two events on one word, each of which adds. -/
theorem twoThreadsAddingToOneWordBothCount : Obligations.TwoThreadsAddingToOneWordBothCount := by
  intro s t₁ t₂ th₁ th₂ i₁ i₂ hne hop₁ hsz₁ hop₂ hsz₂ h₁ h₂ hea
  have hadd (m b : Word) : aluAdd m b = m + b := (BitVec.add_def m b).symm
  obtain ⟨s₁, s₂, r₁, r₂, hexec₁, hexec₂, hr₁, hr₂, hmem, hrd₁, hrd₂⟩ :=
    exec_on_one_word hne (exec_of_addU32 hop₁ hsz₁) (exec_of_addU32 hop₂ hsz₂) h₁ h₂ hea
  simp only [hadd] at hmem hrd₂
  exact ⟨s₁, s₂, r₁, r₂, hexec₁, hexec₂, hr₁, hr₂, hmem, hrd₁, hrd₂⟩

/-- Settles O54: two events on one word, of which the first swaps and the second does not. -/
theorem secondCompareAndSwapFindsTheFirst : Obligations.SecondCompareAndSwapFindsTheFirst := by
  intro s t₁ t₂ th₁ th₂ i₁ i₂ hne hop₁ hsz₁ hop₂ hsz₂ h₁ h₂ hea
  dsimp only
  intro hfound hother
  obtain ⟨s₁, s₂, r₁, r₂, hexec₁, hexec₂, hr₁, hr₂, hmem, hrd₁, hrd₂⟩ :=
    exec_on_one_word hne (exec_of_casU32 hop₁ hsz₁) (exec_of_casU32 hop₂ hsz₂) h₁ h₂ hea
  simp only [aluCas, if_pos hfound, if_neg hother] at hmem hrd₂
  exact ⟨s₁, s₂, r₁, r₂, hexec₁, hexec₂, hr₁, hr₂, hmem, fun n hn => (hrd₁ n hn).trans hfound, hrd₂⟩

/-! ### Passing over one instruction -/

/-- Where no instruction can be read, none is passed over. -/
theorem passOver_unreadable (hi : instrAt L v.thread.pc = none) : passOver L v = none := by
  simp [passOver, hi]

/-- An instruction whose event went ahead is settled. -/
theorem passOver_taken {e : Early} (hi : instrAt L v.thread.pc = some i) (ht : v.thread.taken = some e) :
    passOver L v = some { v with thread := settle L e v.thread } := by
  simp [passOver, hi, ht]

/-- An instruction that the thread does not execute only advances the pc (R81, R82). -/
theorem passOver_inactive (hi : instrAt L v.thread.pc = some i) (ht : v.thread.taken = none)
    (ha : active L v.thread i.record = false) : passOver L v = some { v with thread := advancePc L v.thread } := by
  simp [passOver, hi, ht, ha]

/-- An executed instruction whose address waits leaves its destinations to be written. -/
theorem passOver_unknown (hi : instrAt L v.thread.pc = some i) (ht : v.thread.taken = none)
    (ha : active L v.thread i.record = true) (hk : v.knowsAddress i.record = false) :
    passOver L v = some (v.pend L i.record []) := by
  simp [passOver, hi, ht, ha, hk]

/-- An executed instruction of a known address that is allowed leaves its destinations and its access to come. -/
theorem passOver_known (hi : instrAt L v.thread.pc = some i) (ht : v.thread.taken = none)
    (ha : active L v.thread i.record = true) (hk : v.knowsAddress i.record = true)
    (hallowed : accessAllowed L (effectiveAddress i.record v.thread.regs) i.record.sz.bytes) :
    passOver L v = some (v.pend L i.record [(effectiveAddress i.record v.thread.regs, i.record.sz.bytes)]) := by
  simp [passOver, hi, ht, ha, hk, hallowed.1, hallowed.2]

/-- An executed instruction that raises an error or accesses a sparse page is not passed over (R153, R155, R166). -/
theorem passOver_forbidden (hi : instrAt L v.thread.pc = some i) (ht : v.thread.taken = none)
    (ha : active L v.thread i.record = true) (hk : v.knowsAddress i.record = true)
    (hnot : ¬accessAllowed L (effectiveAddress i.record v.thread.regs) i.record.sz.bytes) : passOver L v = none := by
  unfold accessAllowed at hnot
  simp only [passOver, hi, ht, ha, hk, if_true]
  exact if_neg hnot

/-- The address is known exactly where no base register is still to be written. -/
theorem knowsAddress_iff : v.knowsAddress I = true ↔ ∀ r ∈ baseRegs I, r ∉ v.regs := by
  simp [View.knowsAddress]

/-- What is found past one more instruction is what passing over it gives. -/
theorem viewAhead_succ_of (hv : viewAhead L th k = some v) : viewAhead L th (k + 1) = passOver L v := by
  rw [viewAhead_succ, hv]
  rfl

/-- Settles O60: the next view is what passing over one instruction gives, case by case. -/
theorem instructionsBetweenLeaveTheirResultsToBeWritten :
    Obligations.InstructionsBetweenLeaveTheirResultsToBeWritten := by
  refine fun L th => ⟨rfl, fun k v hv => ?_⟩
  rw [viewAhead_succ_of hv]
  refine ⟨passOver_unreadable, fun i hi => ⟨fun e he => passOver_taken hi he, fun ht => ⟨passOver_inactive hi ht, ?_⟩⟩⟩
  intro ha passed ea
  refine ⟨fun ⟨r, hbase, hwait⟩ => ?_, fun hknown => ⟨?_, ?_⟩⟩
  · have hk : v.knowsAddress i.record = false := by
      rw [← Bool.not_eq_true, knowsAddress_iff]
      exact fun h => h r hbase hwait
    exact passOver_unknown hi ht ha hk
  · exact passOver_known hi ht ha (knowsAddress_iff.mpr hknown)
  · exact passOver_forbidden hi ht ha (knowsAddress_iff.mpr hknown)

/-! ### What holds a later event back -/

/-- No event has been taken at the pc exactly where none of the list stands there. -/
theorem taken_eq_none_iff : th.taken = none ↔ ∀ e ∈ th.early, e.pc ≠ th.pc := by
  simp [Thread.taken]

/-- Nothing that the instruction reads is still to be written. -/
theorem owes_eq_false_iff : v.owes I = false ↔
    (∀ r ∈ sourceRegs I, r ∉ v.regs) ∧ ∀ p ∈ v.preds, I.common.guard.pg ≠ .p p := by
  rw [View.owes, Bool.or_eq_false_iff]
  refine and_congr (by simp) ?_
  cases I.common.guard.pg with
  | pt => simp
  | p k => simpa using ⟨fun hk p hp e => hk (e ▸ hp), fun h hk => h k hk rfl⟩

/-- The views of one thread grow: what an older view passes over next, a later one has passed over. -/
theorem passOver_of_lt (hjk : j < k) (hj : viewAhead L th j = some v') (hk : viewAhead L th k = some v) :
    ∃ v'', passOver L v' = some v'' ∧ ViewGrows v'' v := by
  obtain ⟨d, rfl⟩ : ∃ d, k = (j + 1) + d := ⟨k - (j + 1), by omega⟩
  have hsucc : passMany L (j + 1) (View.start th) = passOver L v' := viewAhead_succ_of hj
  rw [viewAhead, passMany_add, hsucc] at hk
  obtain ⟨v'', hpass, hrest⟩ := Option.bind_eq_some_iff.mp hk
  exact ⟨v'', hpass, passMany_grows hrest⟩

/-- What a thread finds past an older instruction that it executes and whose event is still to come: the destinations of that are still
to be written, and its access, if the address is known, is among those to come. -/
theorem pending_of_lt (hjk : j < k) (hj : viewAhead L th j = some v') (hk : viewAhead L th k = some v)
    (hi : instrAt L v'.thread.pc = some i') (ht : v'.thread.taken = none) (ha : active L v'.thread i'.record = true) :
    (∀ r ∈ destRegs i'.record, r ∈ v.regs) ∧ (∀ p ∈ destPreds i'.record, p ∈ v.preds) ∧
      (v'.knowsAddress i'.record = true →
        (effectiveAddress i'.record v'.thread.regs, i'.record.sz.bytes) ∈ v.accesses) := by
  obtain ⟨v'', hpass, hgrows⟩ := passOver_of_lt hjk hj hk
  obtain ⟨i, hi₁, ⟨e, he, -⟩ | ⟨-, hidle, -⟩ | ⟨-, -, -, -, rfl⟩ | ⟨-, -, hunknown, rfl⟩⟩ := passOver_some hpass
  · cases ht.symm.trans he
  · obtain rfl : i' = i := Option.some.inj (hi.symm.trans hi₁)
    cases ha.symm.trans hidle
  · obtain rfl : i' = i := Option.some.inj (hi.symm.trans hi₁)
    exact ⟨fun r hr => hgrows.regs r (List.mem_append_left _ hr), fun p hp => hgrows.preds p (List.mem_append_left _ hp),
      fun _ => hgrows.accesses _ List.mem_cons_self⟩
  · obtain rfl : i' = i := Option.some.inj (hi.symm.trans hi₁)
    exact ⟨fun r hr => hgrows.regs r (List.mem_append_left _ hr), fun p hp => hgrows.preds p (List.mem_append_left _ hp),
      fun hknown => absurd (hknown.symm.trans hunknown) (by decide)⟩

/-- A later event that is not admitted is not taken: the thread goes on at its pc. -/
theorem act_ahead_of_not_admits (hth : s.thread = some th) (hv : viewAhead s.launch th k = some v)
    (hi : instrAt s.launch v.thread.pc = some i) (h : v.admits s.launch i.record ≠ true) :
    act (.ahead k) s = goOn s th := by
  cases ho : s.launch.ordering with
  | programOrder => simp [act, hth, ho]
  | relaxed => simp [act, hth, ho, goAhead, hv, hi, h]

/-- A later event that is admitted is taken. -/
theorem act_ahead_of_admits (ho : s.launch.ordering = .relaxed) (hth : s.thread = some th)
    (hv : viewAhead s.launch th k = some v) (hi : instrAt s.launch v.thread.pc = some i)
    (h : v.admits s.launch i.record = true) : act (.ahead k) s = takeEvent i v s th := by
  simp [act, hth, ho, goAhead, hv, hi, h]

/-- The registers of an operand: the one it names and, for 8 bytes, the next (R12). -/
theorem mem_dataRegs_iff {sz : Sz} {x : Reg} {r : Nat} :
    r ∈ dataRegs sz x ↔ ∃ m, x = .r m ∧ (r = m ∨ (sz.bytes = 8 ∧ r = m + 1)) := by
  cases x with
  | rz => simp [dataRegs]
  | r m => by_cases h : sz.bytes = 8 <;> simp [dataRegs, h]

/-- The registers of an address: the base and, with `.E`, the next (R13). -/
theorem mem_baseRegs_iff {r : Nat} :
    r ∈ baseRegs I ↔ ∃ m, I.addr.base = some (.r m) ∧ (r = m ∨ (I.common.e = true ∧ r = m + 1)) := by
  unfold baseRegs
  split
  · next m h => cases he : I.common.e <;> simp [h]
  · next hnot => simpa using fun m h => absurd h (hnot m)

/-- The predicate written is Ps, where the form has one that is not PT (R151). -/
theorem mem_destPreds_iff {p : Fin 7} : p ∈ destPreds I ↔ ∃ ra, I.addr = .sp (.p p) ra := by
  unfold destPreds
  split
  · next k ra h => simp [h, eq_comm]
  · next hnot => simpa using fun ra h => hnot p ra h

/-- What reads a result of an instruction reads one of the registers it writes, or its guard the predicate. -/
theorem reads_iff : Reads I J ↔
    (∃ p ∈ destPreds J, I.common.guard.pg = .p p) ∨ ∃ r ∈ destRegs J, r ∈ sourceRegs I := by
  simp only [Reads, mem_destPreds_iff, destRegs, sourceRegs, List.mem_append, mem_dataRegs_iff, mem_baseRegs_iff]
  constructor
  · rintro (⟨p, ra, hp, hJ⟩ | ⟨m, r, hrd, hr, hI⟩)
    · exact .inl ⟨p, ⟨ra, hJ⟩, hp⟩
    · refine .inr ⟨r, ⟨m, hrd, hr⟩, ?_⟩
      obtain h | h | h | ⟨h8, n, hn, h | h⟩ | ⟨he, n, hn, h⟩ := hI
      · exact .inl (.inr ⟨r, h, .inl rfl⟩)
      · exact .inr ⟨r, h, .inl rfl⟩
      · exact .inl (.inl ⟨r, h, .inl rfl⟩)
      · exact .inl (.inr ⟨n, h, .inr ⟨h8, hn⟩⟩)
      · exact .inr ⟨n, h, .inr ⟨h8, hn⟩⟩
      · exact .inl (.inl ⟨n, h, .inr ⟨he, hn⟩⟩)
  · rintro (⟨p, ⟨ra, hJ⟩, hp⟩ | ⟨r, ⟨m, hrd, hr⟩, hI⟩)
    · exact .inl ⟨p, ra, hp, hJ⟩
    · refine .inr ⟨m, r, hrd, hr, ?_⟩
      obtain (⟨n, h, rfl | ⟨he, hn⟩⟩ | ⟨n, h, rfl | ⟨h8, hn⟩⟩) | ⟨n, h, rfl | ⟨h8, hn⟩⟩ := hI
      · exact .inr (.inr (.inl h))
      · exact .inr (.inr (.inr (.inr ⟨he, n, hn, h⟩)))
      · exact .inl h
      · exact .inr (.inr (.inr (.inl ⟨h8, n, hn, .inl h⟩)))
      · exact .inr (.inl h)
      · exact .inr (.inr (.inr (.inl ⟨h8, n, hn, .inr h⟩)))

/-- Settles O57: the destinations of the older instruction are still to be written, so a reader of one of them is not admitted. -/
theorem readerOfAnOutstandingResultWaits : Obligations.ReaderOfAnOutstandingResultWaits := by
  intro s th j k v' v i' i hth hjk hj hk hi' hi ht ha hreads
  obtain ⟨hregs, hpreds, -⟩ := pending_of_lt hjk hj hk hi' ht ha
  refine act_ahead_of_not_admits hth hk hi fun hadmits => ?_
  obtain ⟨-, -, howes, -⟩ := admits_iff.mp hadmits
  obtain ⟨hsources, hguard⟩ := owes_eq_false_iff.mp howes
  obtain ⟨p, hp, hpg⟩ | ⟨r, hr, hsource⟩ := reads_iff.mp hreads
  · exact hguard p (hpreds p hp) hpg
  · exact hsources r hsource (hregs r hr)

/-- A ready instruction is well formed. -/
theorem ready_wf (h : Ready i s th) : i.wf s.launch.numGpr s.launch.spa = true := by
  obtain ⟨-, hwf, -⟩ := h
  exact hwf

/-- The thread executes a ready instruction. -/
theorem ready_active (h : Ready i s th) : active s.launch th i.record = true := by
  obtain ⟨-, -, ha, -⟩ := h
  exact ha

/-- The page that a ready instruction accesses is not sparse. -/
theorem ready_not_sparse (h : Ready i s th) : sparseAt s.launch (effectiveAddress i.record th.regs) = false := by
  obtain ⟨-, -, -, -, hsparse⟩ := h
  exact hsparse

/-- The instruction at the pc, executed, sharing a byte with a later event that went ahead: it does not go on. -/
theorem execBehind_of_meets (ha : active s.launch th i.record = true)
    (hmeets : ∃ e ∈ th.early, ¬Apart e.address e.bytes (effectiveAddress i.record th.regs) i.record.sz.bytes) (t : State) :
    execBehind i s th ≠ .next t := by
  intro h
  obtain ⟨-, th', -, -, hnone⟩ := execBehind_next h
  obtain ⟨e, he, hnot⟩ := hmeets
  exact hnot (overlap_eq_false.mp (hnone ha e he))

/-- Where the state is ready for its event besides, the step says that no run has such an order. -/
theorem execBehind_ready_of_meets (hr : Ready i s th) (hop : i.record.op ≠ .safeAdd)
    (hmeets : ∃ e ∈ th.early, ¬Apart e.address e.bytes (effectiveAddress i.record th.regs) i.record.sz.bytes) :
    execBehind i s th = .fault .forbiddenOrder := by
  obtain ⟨t, hexec, hperf⟩ := exec_ready_performs hop hr
  have hne := execBehind_of_meets (ready_active hr) hmeets t
  obtain ⟨regs, mem, rfl, -, -⟩ := hperf
  have hthread := setThread_thread (s := s.setMem mem) hr.1
    (retire s.launch i.record th regs (sparseAt s.launch (effectiveAddress i.record th.regs)))
  simp only [execBehind, hexec, hthread] at hne ⊢
  split at hne
  · next h => rw [if_pos h]
  · next h =>
    rw [if_neg h]
    split at hne
    · next h' => rw [if_pos h']
    · exact absurd rfl hne

/-- A thread that goes on where its instruction's event is still to come and later ones went ahead. -/
theorem goOn_behind {w : Text} (hf : fetchText s.launch th.pc = some w) (hd : decode w = .ok i) (ht : th.taken = none)
    (he : th.early ≠ []) : goOn s th = execBehind i s th := by
  simp [goOn, hf, hd, ht, he]

/-- Settles O56: an older access, and a later event that went ahead, are among those that an admitted event is apart from. -/
theorem overlappingEventsStayInProgramOrder : Obligations.OverlappingEventsStayInProgramOrder := by
  refine ⟨?_, ?_, ?_⟩
  · intro s th j k v' v i' i hth hjk hj hk hi' hi ht ha hknown hmeets
    obtain ⟨-, -, haccess⟩ := pending_of_lt hjk hj hk hi' ht ha
    refine act_ahead_of_not_admits hth hk hi fun hadmits => ?_
    obtain ⟨-, -, -, -, hapart, -⟩ := admits_iff.mp hadmits
    exact hmeets (overlap_eq_false.mp (hapart _ (haccess (knowsAddress_iff.mpr hknown))))
  · rintro s th k v i hth hk hi ⟨e, he, hmeets⟩
    refine act_ahead_of_not_admits hth hk hi fun hadmits => ?_
    obtain ⟨-, -, -, -, -, hapart⟩ := admits_iff.mp hadmits
    exact hmeets (overlap_eq_false.mp (hapart e he))
  · intro s th w i hth hf hd hnone ha hmeets
    have hearly : th.early ≠ [] := by
      obtain ⟨e, he, -⟩ := hmeets
      exact List.ne_nil_of_mem he
    rw [goOn_behind hf hd (taken_eq_none_iff.mpr hnone) hearly]
    exact ⟨execBehind_of_meets ha hmeets, fun hr hop => execBehind_ready_of_meets hr hop hmeets⟩

/-! ### What may go ahead -/

/-- An event that takes effect where the view is ready for it is the run of the instruction there, kept until the pc comes to it. -/
theorem takeEvent_of_exec {s₁ : State} {done : Thread} (hexec : exec i (s.setThread v.thread) = .next s₁)
    (hdone : s₁.thread = some done) : takeEvent i v s th =
      .next ((s.setMem s₁.mem).setThread { th with early := th.early ++ [earlyOf i v.thread done] }) := by
  simp [takeEvent, hexec, hdone]

/-- An event of a ready view that owes nothing and is apart from the others is admitted. -/
theorem admits_of_ready {t : State} (hlaunch : t.launch = L) (hr : Ready i t v.thread)
    (hnone : ∀ e ∈ v.thread.early, e.pc ≠ v.thread.pc) (hregs : ∀ r ∈ v.regs, r ∉ sourceRegs i.record)
    (hpreds : ∀ p ∈ v.preds, i.record.common.guard.pg ≠ .p p)
    (hold : ∀ a ∈ v.accesses, Apart a.1 a.2 (effectiveAddress i.record v.thread.regs) i.record.sz.bytes)
    (hahead : ∀ e ∈ v.thread.early, Apart e.address e.bytes (effectiveAddress i.record v.thread.regs) i.record.sz.bytes) :
    v.admits L i.record = true := by
  subst hlaunch
  obtain ⟨-, -, ha, hallowed⟩ := hr
  exact admits_iff.mpr ⟨ha, taken_eq_none_iff.mpr hnone, owes_eq_false_iff.mpr ⟨fun r hr hw => hregs r hw hr, hpreds⟩, hallowed,
    fun a h => overlap_eq_false.mpr (hold a h), fun e h => overlap_eq_false.mpr (hahead e h)⟩

/-- The registers noted of an event are those of Rd, with what the instruction left in them. -/
theorem mem_earlyOf_regs {before done : Thread} (n : Nat) (x : Word) : (n, x) ∈ (earlyOf i before done).regs ↔
    n ∈ destRegs i.record ∧ x = readReg done.regs (.r n) := by
  simp only [earlyOf, readReg, List.mem_map, Prod.mk.injEq]
  exact ⟨fun ⟨_, hm, hn, hx⟩ => hn ▸ ⟨hm, hx.symm⟩, fun ⟨hm, hx⟩ => ⟨n, hm, rfl, hx.symm⟩⟩

/-- The predicate noted of an event is Ps, with what the instruction left in it. -/
theorem mem_earlyOf_preds {before done : Thread} (p : Fin 7) (b : Bool) : (p, b) ∈ (earlyOf i before done).preds ↔
    p ∈ destPreds i.record ∧ b = readPred done.preds (.p p) := by
  simp only [earlyOf, List.mem_map, Prod.mk.injEq]
  exact ⟨fun ⟨_, hm, hp, hb⟩ => hp ▸ ⟨hm, hb.symm⟩, fun ⟨hm, hb⟩ => ⟨p, hm, rfl, hb.symm⟩⟩

/-- Settles O59: the event is admitted, and taking it is the run of the instruction on what the view shows. -/
theorem youngerEventMayTakeEffectFirst : Obligations.YoungerEventMayTakeEffectFirst := by
  intro s th k v i horder hth hk hi hop hr hnone hregs hpreds hold hahead
  have hact := act_ahead_of_admits horder hth hk hi (admits_of_ready (t := s.setThread v.thread) rfl hr hnone hregs hpreds hold hahead)
  obtain ⟨s₁, hexec, regs, mem, rfl, -, hmem⟩ := exec_ready_performs hop hr
  have hdone := setThread_thread (s := (s.setThread v.thread).setMem mem) hr.1
    (retire (s.setThread v.thread).launch i.record v.thread regs
      (sparseAt (s.setThread v.thread).launch (effectiveAddress i.record v.thread.regs)))
  refine ⟨_, _, _, _, hexec, hdone, hact.trans (takeEvent_of_exec hexec hdone), rfl, hmem,
    setThread_thread (s := s.setMem mem) hth _, ?_, rfl, rfl, rfl, rfl, mem_earlyOf_regs, mem_earlyOf_preds⟩
  exact ⟨rfl, rfl, rfl, by simp, fun t ht => setThread_other (s := s.setMem mem) ht _⟩

end Sys2Proof.Proofs
end

section
/-!
PROOFS. Deferring and completing (O55): an event is local, as it reads and writes the bytes of its access and reads its source registers
alone; so what takes effect ahead of its turn and is completed later ends as what is run in order.
-/

namespace Sys2Proof.Proofs

open Sys2Proof.Machine Sys2Proof.Claims

variable {I J : AtomInstr} {i j : Instr} {L : Launch} {s s' : State} {th th' : Thread} {ea : DWord} {n a : Nat}
  {m m' : Memory} {regs regs' : Store 32} {text : Text}

/-! ### What an instruction reads -/

/-- Two register files hold the same in the registers listed. -/
def AgreeOn (rs : List Nat) (regs regs' : Store 32) : Prop := ∀ r ∈ rs, storeGet r regs = storeGet r regs'

/-- The access of `n` bytes at `ea` finds the same bytes in two memories. -/
def SameBytes (ea : DWord) (n : Nat) (m m' : Memory) : Prop := ∀ a ∈ accessBytes ea n, readByte m a = readByte m' a

/-- Where the sources hold the same, Rb does. -/
theorem agreeOn_rb (h : AgreeOn (sourceRegs I) regs regs') : AgreeOn (dataRegs I.sz I.rb) regs regs' :=
  fun r hr => h r (List.mem_append_left _ (List.mem_append_right _ hr))

/-- Where the sources hold the same, Rc does. -/
theorem agreeOn_rc (h : AgreeOn (sourceRegs I) regs regs') : AgreeOn (dataRegs I.sz I.rc) regs regs' :=
  fun r hr => h r (List.mem_append_right _ hr)

/-- A byte of an access lies at an offset from its address. -/
theorem exists_offset (h : a ∈ accessBytes ea n) : ∃ k < n, a = ea.toNat + k := by
  obtain ⟨hle, hlt⟩ := mem_accessBytes.mp h
  exact ⟨a - ea.toNat, by omega, by omega⟩

/-- Accesses apart have no byte in common. -/
theorem not_mem_of_apart {ea' : DWord} {k : Nat} (hapart : Apart ea n ea' k) (h : a ∈ accessBytes ea n) :
    a ∉ accessBytes ea' k := by
  rw [mem_accessBytes] at h ⊢
  unfold Apart at hapart
  omega

/-- Being apart does not depend on the order. -/
theorem apart_symm {ea' : DWord} {k : Nat} (h : Apart ea n ea' k) : Apart ea' k ea n := Or.symm h

/-- What the one register of an operand holds. -/
theorem readReg_congr {sz : Sz} {x : Reg} (h : AgreeOn (dataRegs sz x) regs regs') : readReg regs x = readReg regs' x := by
  cases x with
  | rz => rfl
  | r k => exact h k (mem_dataRegs_iff.mpr ⟨k, rfl, .inl rfl⟩)

/-- What the pair of an 8-byte operand holds. -/
theorem readPair_congr {sz : Sz} {x : Reg} (h8 : sz.bytes = 8) (h : AgreeOn (dataRegs sz x) regs regs') :
    readPair regs x = readPair regs' x := by
  cases x with
  | rz => rfl
  | r k =>
    have hlow := h k (mem_dataRegs_iff.mpr ⟨k, rfl, .inl rfl⟩)
    have hhigh := h (k + 1) (mem_dataRegs_iff.mpr ⟨k, rfl, .inr ⟨h8, rfl⟩⟩)
    simp only [readPair, hlow, hhigh]

/-- The effective address depends on the base registers alone (R13). -/
theorem effectiveAddress_congr (h : AgreeOn (baseRegs I) regs regs') :
    effectiveAddress I regs = effectiveAddress I regs' := by
  have hbase (ra : Reg) (hra : I.addr.base = some ra) : readReg regs ra = readReg regs' ra ∧
      (I.common.e = true → readPair regs ra = readPair regs' ra) := by
    cases ra with
    | rz => exact ⟨rfl, fun _ => rfl⟩
    | r k =>
      have hlow := h k (mem_baseRegs_iff.mpr ⟨k, hra, .inl rfl⟩)
      refine ⟨hlow, fun he => ?_⟩
      have hhigh := h (k + 1) (mem_baseRegs_iff.mpr ⟨k, hra, .inr ⟨he, rfl⟩⟩)
      simp only [readPair, hlow, hhigh]
  unfold effectiveAddress
  cases haddr : I.addr with
  | abs imm => rfl
  | ri ra imm =>
    obtain ⟨hreg, hpair⟩ := hbase ra (by rw [haddr]; rfl)
    cases he : I.common.e with
    | false => simp [hreg]
    | true => simp [hpair he]
  | sp ps ra =>
    obtain ⟨hreg, hpair⟩ := hbase ra (by rw [haddr]; rfl)
    cases he : I.common.e with
    | false => simp [hreg]
    | true => simp [hpair he]

/-- A word of an access is the same where the bytes of the access are. -/
theorem read32_congr (h : SameBytes ea n m m') (d : Nat) (hd : d + 4 ≤ n) :
    read32 m (ea.toNat + d) = read32 m' (ea.toNat + d) := by
  have hbyte (k : Nat) (hk : k < 4) : readByte m (ea.toNat + d + k) = readByte m' (ea.toNat + d + k) :=
    h _ (mem_accessBytes.mpr (by omega))
  unfold read32
  rw [hbyte 3 (by omega), hbyte 2 (by omega), hbyte 1 (by omega),
    show readByte m (ea.toNat + d) = readByte m' (ea.toNat + d) from hbyte 0 (by omega)]

/-- So is the doubleword of an access of 8 bytes. -/
theorem read64_congr (h : SameBytes ea 8 m m') : read64 m ea.toNat = read64 m' ea.toNat :=
  congrArg₂ (· ++ ·) (read32_congr h 4 (by omega)) (read32_congr h 0 (by omega))

/-- Two threads look alike to an instruction: in its base registers, in its guard, and in whether they take part. -/
structure LooksAlike (I : AtomInstr) (th th' : Thread) : Prop where
  base : AgreeOn (baseRegs I) th.regs th'.regs
  guard : readPred th.preds I.common.guard.pg = readPred th'.preds I.common.guard.pg
  helper : th.helper = th'.helper
  killed : th.killed = th'.killed

/-- Readiness depends on the launch and on how the thread looks to the instruction. -/
theorem ready_of_looksAlike (hr : Ready i s th) (hth' : s'.thread = some th') (hlaunch : s'.launch = s.launch)
    (h : LooksAlike i.record th th') : Ready i s' th' := by
  obtain ⟨-, hwf, ha, hallowed⟩ := hr
  have hactive : active s.launch th' i.record = active s.launch th i.record := by
    simp only [active, guardTrue, participates, h.guard, h.helper, h.killed]
  refine ⟨hth', ?_, ?_, ?_⟩
  · rwa [hlaunch]
  · rwa [hlaunch, hactive]
  · rwa [hlaunch, ← effectiveAddress_congr h.base]

/-! ### An event, and what it leaves -/

/-- What an event returns for Rd: the word that it found, and for 8 bytes the next word. -/
def returned (I : AtomInstr) (m : Memory) (a : Nat) : List (Nat × Word) :=
  (destRegs I).zip [read32 m a, read32 m (a + 4)]

/-- The state after an event of `I` that left memory as `mem`, with `vs` written to Rd, and the page not sparse. -/
def completed (I : AtomInstr) (s : State) (th : Thread) (mem : Memory) (vs : List (Nat × Word)) : State :=
  (s.setMem mem).setThread (retire s.launch I th (writeRegs vs th.regs) false)

/-- How memory is changed by an event, given memory, the effective address and the registers: in the bytes of the access alone, and
depending on these and the source registers alone. -/
structure LocalStore (I : AtomInstr) (store : Memory → DWord → Store 32 → Memory) : Prop where
  outside : ∀ m ea regs a, a ∉ accessBytes ea I.sz.bytes → readByte (store m ea regs) a = readByte m a
  inside : ∀ m m' ea regs regs', SameBytes ea I.sz.bytes m m' → AgreeOn (sourceRegs I) regs regs' →
    SameBytes ea I.sz.bytes (store m ea regs) (store m' ea regs')

/-- Only registers of Rd are returned. -/
theorem mem_destRegs_of_returned {p : Nat × Word} (h : p ∈ returned I m a) : p.1 ∈ destRegs I :=
  (List.of_mem_zip (a := p.1) (b := p.2) h).1

/-- A register that is not of Rd keeps its value. -/
theorem agreeOn_returned {rs : List Nat} (h : ∀ r ∈ rs, r ∉ destRegs I) (m : Memory) (a : Nat) (regs : Store 32) :
    AgreeOn rs regs (writeRegs (returned I m a) regs) := fun r hr =>
  (storeGet_writeRegs_other (fun p hp (e : p.1 = r) => h r hr (e ▸ mem_destRegs_of_returned hp)) regs).symm

/-- The word read is what a 4-byte event writes to Rd. -/
theorem writeReg_eq_writeRegs (hb : I.sz.bytes = 4) (m : Memory) (a : Nat) (regs : Store 32) :
    writeReg regs I.rd (read32 m a) = writeRegs (returned I m a) regs := by
  cases hrd : I.rd with
  | rz => simp [returned, destRegs, dataRegs, hrd, writeRegs]
  | r k => simp [returned, destRegs, dataRegs, hrd, hb, writeRegs, writeReg]

/-- The doubleword read is what an 8-byte event writes to the pair of Rd. -/
theorem writePair_eq_writeRegs (hb : I.sz.bytes = 8) (m : Memory) (a : Nat) (regs : Store 32) :
    writePair regs I.rd (read64 m a) = writeRegs (returned I m a) regs := by
  have hlow : (read64 m a).extractLsb' 0 32 = read32 m a :=
    (BitVec.extractLsb'_append_eq_of_add_le (by omega)).trans BitVec.extractLsb'_eq_self
  have hhigh : (read64 m a).extractLsb' 32 32 = read32 m (a + 4) :=
    (BitVec.extractLsb'_append_eq_of_le (by omega)).trans BitVec.extractLsb'_eq_self
  cases hrd : I.rd with
  | rz => simp [returned, destRegs, dataRegs, hrd, writeRegs]
  | r k => simp [returned, destRegs, dataRegs, hrd, hb, writeRegs, writePair, hlow, hhigh]

/-- Every size has 4 or 8 bytes (R31). -/
theorem bytes_eq_four_or_eight (sz : Sz) : sz.bytes = 4 ∨ sz.bytes = 8 := by
  cases sz <;> simp [Sz.bytes]

/-- What an event returns is the same where its bytes are. -/
theorem returned_congr (h : SameBytes ea I.sz.bytes m m') :
    returned I m ea.toNat = returned I m' ea.toNat := by
  have hb := bytes_eq_four_or_eight I.sz
  have hfirst : read32 m ea.toNat = read32 m' ea.toNat := read32_congr h 0 (by omega)
  unfold returned
  rw [hfirst]
  obtain h4 | h8 := hb
  · have hone : (destRegs I).length ≤ 1 := by
      unfold destRegs dataRegs
      split <;> simp [h4]
    match destRegs I, hone with
    | [], _ => rfl
    | [_], _ => rfl
  · rw [read32_congr h 4 (by omega)]

/-- Storing a word that depends on the word there and on Rb and Rc is local. -/
theorem localStore_word (hb : I.sz.bytes = 4) (f : Word → Word → Word → Word) :
    LocalStore I fun m ea regs =>
      write32 m ea.toNat (f (read32 m ea.toNat) (readReg regs I.rb) (readReg regs I.rc)) where
  outside m ea regs a ha := by
    rw [mem_accessBytes, hb] at ha
    exact readByte_write32_other (by omega)
  inside m m' ea regs regs' hm hregs a ha := by
    rw [hb] at hm ha
    obtain ⟨k, hk, rfl⟩ := exists_offset ha
    have hread : read32 m ea.toNat = read32 m' ea.toNat := read32_congr hm 0 (by omega)
    rw [readByte_write32_add hk, readByte_write32_add hk, hread, readReg_congr (agreeOn_rb hregs),
      readReg_congr (agreeOn_rc hregs)]

/-- Storing a doubleword that depends on the doubleword there and on the pairs Rb and Rc is local. -/
theorem localStore_dword (hb : I.sz.bytes = 8) (f : DWord → DWord → DWord → DWord) :
    LocalStore I fun m ea regs =>
      write64 m ea.toNat (f (read64 m ea.toNat) (readPair regs I.rb) (readPair regs I.rc)) where
  outside m ea regs a ha := by
    rw [mem_accessBytes, hb] at ha
    exact readByte_write64_other (by omega)
  inside m m' ea regs regs' hm hregs a ha := by
    rw [hb] at hm ha
    obtain ⟨k, hk, rfl⟩ := exists_offset ha
    rw [readByte_write64_add hk, readByte_write64_add hk, read64_congr hm, readPair_congr hb (agreeOn_rb hregs),
      readPair_congr hb (agreeOn_rc hregs)]

/-- Where a state is ready for the instruction, that completes with `store` on memory and what it found there for Rd. -/
def CompletesBy (i : Instr) (store : Memory → DWord → Store 32 → Memory) : Prop :=
  ∀ s th, Ready i s th → exec i s = .next (completed i.record s th
    (store s.mem (effectiveAddress i.record th.regs) th.regs)
    (returned i.record s.mem (effectiveAddress i.record th.regs).toNat))

/-- Every instruction but SAFEADD completes by a local store. -/
theorem exec_completes (hop : i.record.op ≠ .safeAdd) : ∃ store, LocalStore i.record store ∧ CompletesBy i store := by
  obtain ⟨hb, f, hf⟩ | ⟨hb, f, hf⟩ | ⟨hsafe, -⟩ := exec_form i
  · refine ⟨_, localStore_word hb f, fun s th hr => ?_⟩
    rw [hf, atom32_ready hr, perform32, writeReg_eq_writeRegs hb, ready_not_sparse hr]
    rfl
  · refine ⟨_, localStore_dword hb f, fun s th hr => ?_⟩
    rw [hf, atom64_ready hr, perform64, writePair_eq_writeRegs hb, ready_not_sparse hr]
    rfl
  · exact absurd hsafe hop

/-- The executing thread after a completed event. -/
theorem completed_thread (hth : s.thread = some th) (mem : Memory) (vs : List (Nat × Word)) :
    (completed I s th mem vs).thread = some (retire s.launch I th (writeRegs vs th.regs) false) :=
  setThread_thread (s := s.setMem mem) hth _

/-- A store apart from an access leaves its bytes as they are. -/
theorem sameBytes_of_apart {store : Memory → DWord → Store 32 → Memory} {ea' : DWord} (h : LocalStore I store)
    (hapart : Apart ea I.sz.bytes ea' n) (m : Memory) (regs : Store 32) : SameBytes ea' n (store m ea regs) m :=
  fun a ha => h.outside m ea regs a (not_mem_of_apart (apart_symm hapart) ha)

/-- Two local stores at accesses apart commute, where the second does not read what changed between. -/
theorem localStores_commute {σ τ : Memory → DWord → Store 32 → Memory} {ea' : DWord} {regs₁ : Store 32}
    (hσ : LocalStore I σ) (hτ : LocalStore J τ) (hapart : Apart ea I.sz.bytes ea' J.sz.bytes)
    (hregs : AgreeOn (sourceRegs J) regs regs') (m : Memory) (a : Nat) :
    readByte (σ (τ m ea' regs) ea regs₁) a = readByte (τ (σ m ea regs₁) ea' regs') a := by
  have hτσ : SameBytes ea I.sz.bytes (τ m ea' regs) m := sameBytes_of_apart hτ (apart_symm hapart) m regs
  have hστ : SameBytes ea' J.sz.bytes (σ m ea regs₁) m := sameBytes_of_apart hσ hapart m regs₁
  by_cases hI : a ∈ accessBytes ea I.sz.bytes
  · rw [hτ.outside _ _ _ _ (not_mem_of_apart hapart hI)]
    exact hσ.inside _ _ _ _ _ hτσ (fun _ _ => rfl) a hI
  · rw [hσ.outside _ _ _ _ hI]
    by_cases hJ : a ∈ accessBytes ea' J.sz.bytes
    · exact hτ.inside _ _ _ _ _ (fun b hb => (hστ b hb).symm) hregs a hJ
    · rw [hτ.outside _ _ _ _ hJ, hτ.outside _ _ _ _ hJ, hσ.outside _ _ _ _ hI]

/-! ### An event ahead of its turn, and its completion -/

/-- A thread put back in its own place changes nothing. -/
theorem setThread_self (hth : s.thread = some th) : s.setThread th = s := by
  obtain ⟨hlt, hget⟩ := List.getElem?_eq_some_iff.mp hth
  simp [State.setThread, ← hget]

/-- What is noted of an event for Rd is what the event returned. -/
theorem earlyOf_regs (i : Instr) (before : Thread) (m : Memory) (a : Nat) (b : Bool) :
    (earlyOf i before (retire L i.record before (writeRegs (returned i.record m a) before.regs) b)).regs =
      returned i.record m a := by
  cases hrd : i.record.rd with
  | rz => simp [earlyOf, returned, destRegs, dataRegs, hrd]
  | r k =>
    by_cases hb : i.record.sz.bytes = 8 <;>
      simp [earlyOf, returned, destRegs, dataRegs, hrd, hb, writeRegs, storeGet_put]

/-- Writing what is noted of an event for Ps is writing Ps. -/
theorem writePreds_earlyOf (i : Instr) (before : Thread) (regs : Store 32) (b : Bool) (preds : Vector Bool 7) :
    writePreds (earlyOf i before (retire L i.record before regs b)).preds preds = writePs i.record preds b := by
  cases haddr : i.record.addr with
  | ri ra imm => simp [earlyOf, destPreds, writePs, haddr, writePreds]
  | abs imm => simp [earlyOf, destPreds, writePs, haddr, writePreds]
  | sp ps ra =>
    cases ps with
    | pt => simp [earlyOf, destPreds, writePs, haddr, writePreds]
    | p k => simp [earlyOf, destPreds, writePs, haddr, writePreds, readPred_writePred]

/-- A thread that is chosen to run goes on at its pc, under either ordering. -/
theorem act_run (hth : s.thread = some th) : act .run s = goOn s th := by
  cases ho : s.launch.ordering <;> simp [act, hth, ho]

/-- A thread with no event ahead of its turn runs the instruction at its pc. -/
theorem act_run_exec (hth : s.thread = some th) (hf : fetchText s.launch th.pc = some text) (hd : decode text = .ok i)
    (he : th.early = []) : act .run s = exec i s := by
  have ht : th.taken = none := taken_eq_none_iff.mpr (by simp [he])
  simp [act_run hth, goOn, hf, hd, ht, he]

/-- A thread with the events ahead of their turn put back to none. -/
theorem early_put_back (hearly : th.early = []) (es : List Early) : { { th with early := es } with early := [] } = th := by
  cases th
  simp_all

/-- A thread replaced twice. -/
theorem setThread_setThread (s : State) (th th' : Thread) : (s.setThread th).setThread th' = s.setThread th' := by
  simp [State.setThread]

/-- The note of an event of `i` that took effect in the thread `before` and returned `vs`. -/
def noteOf (L : Launch) (i : Instr) (before : Thread) (vs : List (Nat × Word)) : Early :=
  earlyOf i before (retire L i.record before (writeRegs vs before.regs) false)

/-- An admitted event that completes is noted, and memory is what the event makes it. -/
theorem act_ahead_completes {k : Nat} {v : View} {mem : Memory} {vs : List (Nat × Word)}
    (horder : s.launch.ordering = .relaxed) (hth : s.thread = some th) (hv : viewAhead s.launch th k = some v)
    (hi : instrAt s.launch v.thread.pc = some i) (hadmits : v.admits s.launch i.record = true)
    (hexec : exec i (s.setThread v.thread) = .next (completed i.record (s.setThread v.thread) v.thread mem vs)) :
    act (.ahead k) s = .next ((s.setMem mem).setThread
      { th with early := th.early ++ [noteOf s.launch i v.thread vs] }) := by
  rw [act_ahead_of_admits horder hth hv hi hadmits]
  exact takeEvent_of_exec hexec (completed_thread (setThread_thread hth v.thread) mem vs)

/-- A thread at the pc of the one event that was noted retires the instruction with what the event returned. -/
theorem act_run_settles {before : Thread} (hth : s.thread = some th) (hf : fetchText s.launch th.pc = some text)
    (hd : decode text = .ok i) (hearly : th.early = [noteOf s.launch i before (returned i.record m a)])
    (hpc : before.pc = th.pc) :
    act .run s = .next (s.setThread
      (retire s.launch i.record { th with early := [] } (writeRegs (returned i.record m a) th.regs) false)) := by
  have htaken : th.taken = some (noteOf s.launch i before (returned i.record m a)) := by
    simp [Thread.taken, hearly, noteOf, earlyOf, hpc]
  have hgo : goOn s th = .next (s.setThread (settle s.launch (noteOf s.launch i before (returned i.record m a)) th)) := by
    simp [goOn, hf, hd, htaken]
  rw [act_run hth, hgo, settle, hearly, List.erase_cons_head]
  rw [noteOf, earlyOf_regs, writePreds_earlyOf]
  rfl

/-- The instruction at the pc goes on past later events that share no byte with it, where it raises no error. -/
theorem act_run_behind (hth : s.thread = some th) (hf : fetchText s.launch th.pc = some text) (hd : decode text = .ok i)
    (hnone : ∀ e ∈ th.early, e.pc ≠ th.pc) (hne : th.early ≠ []) (hexec : exec i s = .next s') (hth' : s'.thread = some th')
    (hfault : th'.fault = none)
    (hapart : ∀ e ∈ th.early, Apart e.address e.bytes (effectiveAddress i.record th.regs) i.record.sz.bytes) :
    act .run s = .next s' := by
  have hmeets : (th.early.any fun e => e.meets (effectiveAddress i.record th.regs) i.record.sz.bytes) = false :=
    List.any_eq_false.mpr fun e he => Bool.not_eq_true _ ▸ overlap_eq_false.mpr (hapart e he)
  rw [act_run hth, goOn_behind hf hd (taken_eq_none_iff.mpr hnone) hne]
  simp [execBehind, hexec, hth', hfault, hmeets]

/-- Deferring one instruction's Rd, Ps and pc, and completing it, is running it. -/
theorem deferring_write_back_is_running (horder : s.launch.ordering = .relaxed) (hearly : th.early = [])
    (hr : Ready i s th) (hop : i.record.op ≠ .safeAdd) (hf : fetchText s.launch th.pc = some text) (hd : decode text = .ok i) :
    ∃ s₁ th₁ s₂, act (.ahead 0) s = .next s₁ ∧ s₁.thread = some th₁ ∧ th₁.regs = th.regs ∧ th₁.preds = th.preds ∧
      th₁.pc = th.pc ∧ act .run s₁ = .next s₂ ∧ exec i s = .next s₂ := by
  obtain ⟨store, -, hstore⟩ := exec_completes hop
  have hth : s.thread = some th := hr.1
  have hexec := hstore s th hr
  have hadmits : (View.start th).admits s.launch i.record = true :=
    admits_of_ready (t := s) rfl hr (by simp [View.start, hearly]) nofun nofun nofun (by simp [View.start, hearly])
  have hahead := act_ahead_completes (v := View.start th) (k := 0) horder hth rfl
    (instrAt_some.mpr ⟨text, hf, hd, ready_wf hr⟩) hadmits (by rw [View.start, setThread_self hth]; exact hexec)
  rw [hearly] at hahead
  refine ⟨_, _, _, hahead, setThread_thread (s := s.setMem _) hth _, rfl, rfl, rfl,
    act_run_settles (setThread_thread (s := s.setMem _) hth _) hf hd rfl rfl, ?_⟩
  rw [hexec, setThread_setThread, early_put_back hearly]
  rfl

/-- What the second of two instructions finds past the first, whose event is still to come: Ps is taken to be 0, and the pc is its
own. -/
theorem viewAhead_one (hearly : th.early = []) (hr : Ready i s th) (hi : instrAt s.launch th.pc = some i) :
    viewAhead s.launch th 1 = some ((View.start th).pend s.launch i.record
      [(effectiveAddress i.record th.regs, i.record.sz.bytes)]) := by
  obtain ⟨-, -, ha, hallowed⟩ := hr
  have ht : th.taken = none := taken_eq_none_iff.mpr (by simp [hearly])
  exact (viewAhead_succ_of (k := 0) rfl).trans
    (passOver_known (v := View.start th) hi ht ha (knowsAddress_iff.mpr fun _ _ => nofun) hallowed)

/-- Ps written leaves a guard that does not read it as it is. -/
theorem readPred_guard_writePs (h : ∀ p ∈ destPreds I, J.common.guard.pg ≠ .p p) (preds : Vector Bool 7) (b : Bool) :
    readPred preds J.common.guard.pg = readPred (writePs I preds b) J.common.guard.pg := by
  cases hpg : J.common.guard.pg with
  | pt => rfl
  | p k => exact (readPred_writePs_other (fun ra ha => h k (mem_destPreds_iff.mpr ⟨ra, ha⟩) hpg) preds b).symm

/-- The thread as the second instruction finds it past the first, whose event is still to come. -/
def pastPending (L : Launch) (I : AtomInstr) (th : Thread) : Thread :=
  advancePc L { th with preds := writePs I th.preds false }

/-- The thread after the event of `j` went ahead of `i` and returned `vs`. -/
def withNote (L : Launch) (i j : Instr) (th : Thread) (vs : List (Nat × Word)) : Thread :=
  { th with early := [noteOf L j (pastPending L i.record th) vs] }

/-- The two instructions of the second clause, at the pc and at the next one. -/
structure DeferrablePair (i j : Instr) (s : State) (th : Thread) : Prop where
  ordering : s.launch.ordering = .relaxed
  early : th.early = []
  fault : th.fault = none
  first : Ready i s th
  second : Ready j (s.setThread { th with pc := th.pc + s.launch.ilen }) { th with pc := th.pc + s.launch.ilen }
  firstText : ∃ w, fetchText s.launch th.pc = some w ∧ decode w = .ok i
  secondText : ∃ w, fetchText s.launch (th.pc + s.launch.ilen) = some w ∧ decode w = .ok j
  guard : ∀ p ∈ destPreds i.record, j.record.common.guard.pg ≠ .p p
  sources : ∀ r ∈ sourceRegs j.record, r ∉ destRegs i.record
  apart : Apart (effectiveAddress i.record th.regs) i.record.sz.bytes (effectiveAddress j.record th.regs) j.record.sz.bytes

/-- The two instructions stand at different pcs: they access different bytes. -/
theorem ilen_ne_zero_of_pair (h : DeferrablePair i j s th) : s.launch.ilen ≠ 0 := by
  intro hzero
  obtain ⟨w, hw, hi⟩ := h.firstText
  obtain ⟨x, hx, hj⟩ := h.secondText
  rw [hzero, Nat.add_zero, hw] at hx
  obtain rfl := Option.some.inj hx
  obtain rfl : i = j := Except.ok.inj (hi.symm.trans hj)
  have hapart := h.apart
  have hb := bytes_eq_four_or_eight i.record.sz
  unfold Apart at hapart
  omega

/-- The base registers of the second instruction are not written by the first. -/
theorem base_not_written (h : DeferrablePair i j s th) : ∀ r ∈ baseRegs j.record, r ∉ destRegs i.record :=
  fun r hr => h.sources r (List.mem_append_left _ (List.mem_append_left _ hr))

/-- The second instruction is ready in a thread that is past the first, whatever has become of the registers that the first writes. -/
theorem second_ready_past (h : DeferrablePair i j s th) (hth' : s'.thread = some th') (hlaunch : s'.launch = s.launch)
    (hbase : AgreeOn (baseRegs j.record) th.regs th'.regs) (hpreds : th'.preds = writePs i.record th.preds false)
    (hhelper : th'.helper = th.helper) (hkilled : th'.killed = th.killed) : Ready j s' th' :=
  ready_of_looksAlike h.second hth' hlaunch
    ⟨hbase, hpreds ▸ readPred_guard_writePs h.guard th.preds false, hhelper.symm, hkilled.symm⟩

/-- The second event takes effect ahead of the first. -/
theorem second_goes_ahead {τ : Memory → DWord → Store 32 → Memory} (h : DeferrablePair i j s th)
    (hτ : CompletesBy j τ) :
    act (.ahead 1) s = .next ((s.setMem (τ s.mem (effectiveAddress j.record th.regs) th.regs)).setThread
      (withNote s.launch i j th (returned j.record s.mem (effectiveAddress j.record th.regs).toNat))) := by
  obtain ⟨w, hw, hi⟩ := h.firstText
  obtain ⟨x, hx, hj⟩ := h.secondText
  have hth : s.thread = some th := h.first.1
  have hview := viewAhead_one h.early h.first (instrAt_some.mpr ⟨w, hw, hi, ready_wf h.first⟩)
  have hready : Ready j (s.setThread (pastPending s.launch i.record th)) (pastPending s.launch i.record th) :=
    second_ready_past h (setThread_thread hth _) rfl (fun _ _ => rfl) rfl rfl rfl
  have hnone : ∀ e, e ∉ th.early := by simp [h.early]
  have hadmits := admits_of_ready (L := s.launch) (t := s.setThread (pastPending s.launch i.record th))
    (v := (View.start th).pend s.launch i.record [(effectiveAddress i.record th.regs, i.record.sz.bytes)]) rfl hready
    (fun e he => absurd he (hnone e))
    (fun r hr hs => h.sources r hs (by simpa [View.pend, View.start] using hr))
    (fun p hp => h.guard p (by simpa [View.pend, View.start] using hp))
    (fun a ha => by
      obtain rfl := List.mem_singleton.mp ha
      exact h.apart)
    (fun e he => absurd he (hnone e))
  have hwf := ready_wf h.second
  have hact := act_ahead_completes h.ordering hth hview (instrAt_some.mpr ⟨x, hx, hj, hwf⟩) hadmits (hτ _ _ hready)
  rw [h.early] at hact
  exact hact

/-- The first instruction then runs past the event of the second. -/
theorem first_runs_behind {σ : Memory → DWord → Store 32 → Memory} (h : DeferrablePair i j s th) (hσ : CompletesBy i σ)
    (mem : Memory) (vs : List (Nat × Word)) :
    act .run ((s.setMem mem).setThread (withNote s.launch i j th vs)) =
      .next (completed i.record ((s.setMem mem).setThread (withNote s.launch i j th vs)) (withNote s.launch i j th vs)
        (σ mem (effectiveAddress i.record th.regs) th.regs)
        (returned i.record mem (effectiveAddress i.record th.regs).toNat)) := by
  obtain ⟨w, hw, hi⟩ := h.firstText
  have hthread := setThread_thread (s := s.setMem mem) h.first.1 (withNote s.launch i j th vs)
  have hready := ready_of_looksAlike h.first hthread rfl ⟨fun _ _ => rfl, rfl, rfl, rfl⟩
  refine act_run_behind hthread hw hi ?_ (List.cons_ne_nil _ _) (hσ _ _ hready) (completed_thread hthread _ _) h.fault ?_
  · intro e he
    obtain rfl := List.mem_singleton.mp he
    have hlen := ilen_ne_zero_of_pair h
    show th.pc + s.launch.ilen ≠ th.pc
    omega
  · intro e he
    obtain rfl := List.mem_singleton.mp he
    exact apart_symm h.apart

/-- The second event is then settled, over the registers that the first has left. -/
theorem second_settles (h : DeferrablePair i j s th) (m mem mem' : Memory) (a : Nat) (vs : List (Nat × Word)) :
    act .run (completed i.record ((s.setMem mem).setThread (withNote s.launch i j th (returned j.record m a)))
        (withNote s.launch i j th (returned j.record m a)) mem' vs) =
      .next ((completed i.record ((s.setMem mem).setThread (withNote s.launch i j th (returned j.record m a)))
        (withNote s.launch i j th (returned j.record m a)) mem' vs).setThread
        (retire s.launch j.record (retire s.launch i.record th (writeRegs vs th.regs) false)
          (writeRegs (returned j.record m a) (writeRegs vs th.regs)) false)) := by
  obtain ⟨x, hx, hj⟩ := h.secondText
  have hthread := completed_thread (I := i.record) (setThread_thread (s := s.setMem mem) h.first.1
    (withNote s.launch i j th (returned j.record m a))) mem' vs
  have hput : retire s.launch i.record { th with early := [] } (writeRegs vs th.regs) false =
      retire s.launch i.record th (writeRegs vs th.regs) false :=
    congrArg (retire s.launch i.record · (writeRegs vs th.regs) false) (early_put_back h.early th.early)
  rw [act_run_settles hthread hx hj rfl rfl, ← hput]
  rfl

/-- The two instructions run in order. -/
theorem pair_in_order {σ τ : Memory → DWord → Store 32 → Memory} (h : DeferrablePair i j s th)
    (hσ : CompletesBy i σ) (hτ : CompletesBy j τ) :
    ∃ t₁ th₁, act .run s = .next t₁ ∧ t₁ = completed i.record s th (σ s.mem (effectiveAddress i.record th.regs) th.regs)
        (returned i.record s.mem (effectiveAddress i.record th.regs).toNat) ∧
      th₁ = retire s.launch i.record th
        (writeRegs (returned i.record s.mem (effectiveAddress i.record th.regs).toNat) th.regs) false ∧
      act .run t₁ = .next (completed j.record t₁ th₁ (τ t₁.mem (effectiveAddress j.record th.regs) th₁.regs)
        (returned j.record t₁.mem (effectiveAddress j.record th.regs).toNat)) := by
  obtain ⟨w, hw, hi⟩ := h.firstText
  obtain ⟨x, hx, hj⟩ := h.secondText
  have hfirst := (act_run_exec h.first.1 hw hi h.early).trans (hσ s th h.first)
  have hthread := completed_thread (I := i.record) h.first.1 (σ s.mem (effectiveAddress i.record th.regs) th.regs)
    (returned i.record s.mem (effectiveAddress i.record th.regs).toNat)
  have hbase := agreeOn_returned (base_not_written h) s.mem (effectiveAddress i.record th.regs).toNat th.regs
  have hready := second_ready_past h hthread rfl hbase rfl rfl rfl
  refine ⟨_, _, hfirst, rfl, rfl, (act_run_exec hthread hx hj h.early).trans ?_⟩
  rw [hτ _ _ hready, retire_regs, ← effectiveAddress_congr hbase]

/-- Two instructions of which the second's event goes ahead end as they do when they run in order. -/
theorem deferring_an_instruction_is_running (h : DeferrablePair i j s th) (hi : i.record.op ≠ .safeAdd)
    (hj : j.record.op ≠ .safeAdd) :
    ∃ s₁ s₂ s₃ t₁ t₂, act (.ahead 1) s = .next s₁ ∧ act .run s₁ = .next s₂ ∧ act .run s₂ = .next s₃ ∧
      act .run s = .next t₁ ∧ act .run t₁ = .next t₂ ∧ (∀ a, readByte s₃.mem a = readByte t₂.mem a) ∧
      s₃ = { t₂ with mem := s₃.mem } ∧
      ∀ a, readByte s₁.mem a =
        if (effectiveAddress j.record th.regs).toNat ≤ a ∧ a < (effectiveAddress j.record th.regs).toNat + j.record.sz.bytes
        then readByte t₂.mem a else readByte s.mem a := by
  obtain ⟨σ, hσ, hexecσ⟩ := exec_completes hi
  obtain ⟨τ, hτ, hexecτ⟩ := exec_completes hj
  obtain ⟨t₁, th₁, hrun₁, ht₁, hth₁, hrun₂⟩ := pair_in_order h hexecσ hexecτ
  have hahead := second_goes_ahead h hexecτ
  have hbehind := first_runs_behind h hexecσ (τ s.mem (effectiveAddress j.record th.regs) th.regs)
    (returned j.record s.mem (effectiveAddress j.record th.regs).toNat)
  have hapart := h.apart
  generalize effectiveAddress i.record th.regs = eaI at *
  generalize effectiveAddress j.record th.regs = eaJ at *
  have hτbytes := sameBytes_of_apart hτ (apart_symm hapart) s.mem th.regs
  have hσbytes := sameBytes_of_apart hσ hapart s.mem th.regs
  have hregs : AgreeOn (sourceRegs j.record) th.regs th₁.regs :=
    hth₁ ▸ agreeOn_returned h.sources s.mem eaI.toNat th.regs
  have hmem₁ : t₁.mem = σ s.mem eaI th.regs := by rw [ht₁]; rfl
  rw [returned_congr hτbytes] at hbehind
  rw [hmem₁, returned_congr hσbytes] at hrun₂
  refine ⟨_, _, _, t₁, _, hahead, hbehind, second_settles h _ _ _ _ _, hrun₁, hrun₂, ?_, ?_, ?_⟩
  · exact localStores_commute hσ hτ hapart hregs s.mem
  · subst ht₁ hth₁
    simp [completed, State.setThread, State.setMem]
  · intro a
    show readByte (τ s.mem eaJ th.regs) a = if _ then readByte (τ (σ s.mem eaI th.regs) eaJ th₁.regs) a else _
    split
    · next ha => exact hτ.inside _ _ _ _ _ (fun b hb => (hσbytes b hb).symm) hregs a (mem_accessBytes.mpr ha)
    · next ha => exact hτ.outside _ _ _ _ fun hin => ha (mem_accessBytes.mp hin)

/-- Settles O55: the event of the instruction at the pc, or of the next one, goes ahead, and what it returned is settled later. -/
theorem deferringThenCompletingIsRunning : Obligations.DeferringThenCompletingIsRunning := by
  refine ⟨fun i s th w horder hearly hr hop hf hd => deferring_write_back_is_running horder hearly hr hop hf hd, ?_⟩
  intro i j s th w x horder hearly hfault hi hj hopi hopj hw hdi hx hdj hnot hapart
  obtain ⟨hguard, hsources⟩ := not_or.mp (mt reads_iff.mpr hnot)
  exact deferring_an_instruction_is_running
    { ordering := horder, early := hearly, fault := hfault, first := hi, second := hj
      firstText := ⟨w, hw, hdi⟩, secondText := ⟨x, hx, hdj⟩
      guard := fun p hp hpg => hguard ⟨p, hp, hpg⟩
      sources := fun r hr hdest => hsources ⟨r, hdest, hr⟩
      apart := hapart } hopi hopj

end Sys2Proof.Proofs
end

section
/-!
PROOFS. The statements of 30_encoding.md: an instruction's statement is read back as that instruction, what well-formed
instructions name and which are refused, the binary Ps field, and the spellings of the page.
-/

namespace Sys2Proof.Proofs

open Sys2Proof.Machine Sys2Proof.Claims

variable {I : AtomInstr} {numGpr : Nat} {spa : SpaVersion} {op : Op} {sz : Sz} {toks : List Tok}

/-! ### The record of an instruction -/

/-- An instruction is what its record stands for, and its operation takes its size (R62, R74). -/
theorem recordReadsBack (i : Instr) : Laws.RecordReadsBack.Statement i := by
  cases i <;> exact ⟨rfl, rfl⟩

/-- Rc is named by CAS alone (R68). -/
theorem record_cas_or_rc_rz (i : Instr) : i.record.op = .cas ∨ i.record.rc = .rz := by
  cases i <;> simp [Instr.record]

/-! ### Each parser reads what the encoder writes for it -/

/-- The guard is read back; one that is left out is `@PT` (R57). -/
theorem parseGuard_guardToks (g : Guard) (w : Text) (toks : List Tok) :
    parseGuard (guardToks g ++ .word w :: toks) = .ok (g, .word w :: toks) := by
  unfold guardToks
  split
  · next halways => subst halways; rfl
  · obtain ⟨neg, pg⟩ := g
    cases neg <;> simp [parseGuard, predOf_name]

/-- The mnemonic of a legal pair is read back (R58 to R62). -/
theorem parseMnemonic_mnemonicText (e : Bool) (h : legalPair op sz = true) (toks : List Tok) :
    parseMnemonic (.word (mnemonicText e op sz) :: toks) = .ok ((e, op, sz), toks) := by
  simp only [parseMnemonic, mnemonicOf_mnemonicText e op sz h]

/-- The Ps of an address operand, in the sparse forms. -/
def psOf : Addr → Option PredReg
  | .sp ps _ => some ps
  | _ => none

/-- Ps is read back where the form has one; in the other forms Rd is not taken for it (R55). -/
theorem parsePs_psToks (A : Addr) (rd : Reg) (toks : List Tok) :
    parsePs (psToks A ++ .word rd.name :: .sym .comma :: toks) = (psOf A, .word rd.name :: .sym .comma :: toks) := by
  cases A with
  | ri ra imm => simp [psToks, psOf, parsePs, predOf_reg_name]
  | abs imm => simp [psToks, psOf, parsePs, predOf_reg_name]
  | sp ps ra => simp [psToks, psOf, parsePs, predOf_name]

/-- A register is read back. -/
theorem parseReg_name (r : Reg) (toks : List Tok) : parseReg (.word r.name :: toks) = .ok (r, toks) := by
  simp only [parseReg, regOf_name]

/-- What stands in the brackets for an address operand: the signed offset is always written (R64). -/
def addrTextOf : Addr → AddrText
  | .ri ra imm => .reg ra (some imm.toInt)
  | .abs imm => .number imm.toNat
  | .sp _ ra => .reg ra none

/-- A decimal number is no register's name. -/
theorem regOf_decText (n : Nat) : regOf (decText n) = none := by
  have hdigits := decText_digits n
  generalize decText n = t at hdigits
  have hne : t ≠ text "RZ" := by
    rintro rfl
    exact absurd hdigits (by decide +kernel)
  unfold regOf
  rw [if_neg hne]
  cases t with
  | nil => rfl
  | cons c ds =>
    have hc : c ≠ ascii 'R' := by
      rintro rfl
      rw [List.all_cons, Bool.and_eq_true] at hdigits
      exact absurd hdigits.1 (by decide)
    simp only [if_neg hc]

/-- A signed offset is its sign in front of its absolute value. -/
theorem toInt_eq_sign_abs (imm : BitVec 20) : imm.toInt = if imm.msb then -|imm.toInt| else |imm.toInt| := by
  rw [BitVec.msb_eq_toInt]
  by_cases hneg : imm.toInt < 0
  · simp [hneg, abs_of_neg hneg]
  · simp [hneg, abs_of_nonneg (not_lt.mp hneg)]

/-- The bracketed address is read back. -/
theorem parseAddr_addrToks (A : Addr) (toks : List Tok) :
    parseAddr (addrToks A ++ toks) = .ok (addrTextOf A, toks) := by
  cases A with
  | ri ra imm =>
    have hint := toInt_eq_sign_abs imm
    cases hmsb : imm.msb <;> rw [hmsb] at hint <;>
      simpa [addrToks, addrTextOf, hmsb, parseAddr, regOf_name, numberOf_decText] using hint.symm
  | abs imm => simp [addrToks, addrTextOf, parseAddr, regOf_decText, numberOf_decText]
  | sp ps ra => simp [addrToks, addrTextOf, parseAddr, regOf_name]

/-- Every 20-bit immediate is in the range of its form, and makes the address operand it was written for (R64 to R66). -/
theorem addrOf_addrTextOf (A : Addr) : addrOf (psOf A) (addrTextOf A) = .ok A := by
  cases A with
  | ri ra imm =>
    have hlow := BitVec.le_toInt imm
    have hhigh := BitVec.toInt_lt (x := imm)
    simp only [psOf, addrTextOf, addrOf, Option.getD_some, BitVec.ofInt_toInt]
    rw [if_pos (by omega)]
  | abs imm =>
    have hlt := imm.isLt
    simp only [psOf, addrTextOf, addrOf, BitVec.ofNat_toNat, BitVec.setWidth_eq]
    rw [if_pos (by omega)]
  | sp ps ra => rfl

/-- Rc is read back for CAS; for another operation nothing is read and it is RZ (R52, R68). -/
theorem parseRc_rcToks {rc : Reg} (h : op = .cas ∨ rc = .rz) (hcomma : toks.head? ≠ some (.sym .comma)) :
    parseRc op (rcToks op rc ++ toks) = .ok (rc, toks) := by
  by_cases hcas : op = .cas
  · simp [rcToks, parseRc, hcas, parseReg_name]
  · obtain rfl : rc = .rz := h.resolve_left hcas
    simp only [rcToks, if_neg hcas, List.nil_append]
    unfold parseRc
    split
    · next rest => exact absurd rfl hcomma
    · rw [if_neg hcas]

/-! ### The opex items -/

/-- What was written after a lead is found after it. -/
theorem afterLead_append (lead t : Text) : afterLead lead (lead ++ t) = some t := by
  induction lead with
  | nil => rfl
  | cons c lead ih => simp [afterLead, ih]

/-- The tokens do not begin with an item of this sign and lead. -/
def NoItem (sign : Sym) (lead : Text) (toks : List Tok) : Prop :=
  ∀ w rest, toks = .sym sign :: .word w :: rest → afterLead lead w = none

/-- Where no such item stands, nothing is read. -/
theorem parseOpexItem_of_noItem {sign : Sym} {lead : Text} (h : NoItem sign lead toks) :
    parseOpexItem sign lead toks = .ok (none, toks) := by
  unfold parseOpexItem
  split
  · next s w rest =>
    split
    · next hs => subst hs; rw [h w rest rfl]
    · rfl
  · rfl

/-- An opex item is read back, and where it is left out nothing is read. -/
theorem parseOpexItem_opexItemToks {sign : Sym} {lead : Text} (item : Option Nat) (h : NoItem sign lead toks) :
    parseOpexItem sign lead (opexItemToks sign lead item ++ toks) = .ok (item, toks) := by
  cases item with
  | none => exact parseOpexItem_of_noItem h
  | some n => simp [opexItemToks, parseOpexItem, afterLead_append, decOf_decText]

/-- Tokens that begin with another item, or with none of this sign, hold no such item. -/
theorem noItem_opexItemToks {sign sign' : Sym} {lead lead' : Text} (item : Option Nat)
    (hlead : sign' = sign → ∀ t, afterLead lead (lead' ++ t) = none) (h : NoItem sign lead toks) :
    NoItem sign lead (opexItemToks sign' lead' item ++ toks) := by
  cases item with
  | none => exact h
  | some n =>
    rintro w rest htoks
    simp only [opexItemToks, List.cons_append, List.nil_append, List.cons.injEq, Tok.sym.injEq, Tok.word.injEq] at htoks
    obtain ⟨hsign, rfl, -⟩ := htoks
    exact hlead hsign _

/-- The end of a statement is no opex item. -/
theorem noItem_semi (sign : Sym) (lead : Text) : NoItem sign lead [.sym .semi] := by
  rintro w rest htoks
  simp at htoks

/-- The request set, written as a number where it is not empty, is read back. -/
theorem ofNat_getD_req (req : BitVec 6) :
    BitVec.ofNat 6 ((if req = 0#6 then none else some req.toNat).getD 0) = req := by
  split
  · next hempty => rw [hempty]; rfl
  · rw [Option.getD_some, BitVec.ofNat_toNat, BitVec.setWidth_eq]

/-- A request set is written as a number below 64. -/
theorem getD_req_lt (req : BitVec 6) : (if req = 0#6 then none else some req.toNat).getD 0 < 64 := by
  split
  · decide
  · exact req.isLt

/-- The opex items are read back in the order of R72; an empty request set is one that is left out. -/
theorem parseOpex_opexToks (o : Opex) : parseOpex (opexToks o ++ [.sym .semi]) = .ok (o, [.sym .semi]) := by
  obtain ⟨req, rd, wr, sched⟩ := o
  have noneFromSched (lead : Text) : NoItem .amp lead (opexItemToks .quest [] sched ++ [.sym .semi]) :=
    noItem_opexItemToks sched nofun (noItem_semi _ _)
  have noneFromWr (lead : Text) (h : ∀ t, afterLead lead (text "wr" ++ t) = none) :
      NoItem .amp lead (opexItemToks .amp (text "wr") wr ++ (opexItemToks .quest [] sched ++ [.sym .semi])) :=
    noItem_opexItemToks wr (fun _ => h) (noneFromSched lead)
  have noneFromRd : NoItem .amp (text "req_") (opexItemToks .amp (text "rd") rd ++
      (opexItemToks .amp (text "wr") wr ++ (opexItemToks .quest [] sched ++ [.sym .semi]))) :=
    noItem_opexItemToks rd (fun _ _ => rfl) (noneFromWr _ fun _ => rfl)
  have hreq := parseOpexItem_opexItemToks (if req = 0#6 then none else some req.toNat) noneFromRd
  have hrd := parseOpexItem_opexItemToks rd (noneFromWr (text "rd") fun _ => rfl)
  have hwr := parseOpexItem_opexItemToks wr (noneFromSched (text "wr"))
  have hsched := parseOpexItem_opexItemToks sched (noItem_semi .quest [])
  simp only [parseOpex, opexToks, List.append_assoc, hreq, hrd, hwr, hsched, bind, Except.bind, getD_req_lt, if_true,
    ofNat_getD_req]

/-- An opex item, where it stands, begins with its sign. -/
theorem opexItemToks_head_ne {sign sign' : Sym} {lead : Text} (item : Option Nat) (hsign : sign ≠ sign')
    (h : toks.head? ≠ some (.sym sign')) : (opexItemToks sign lead item ++ toks).head? ≠ some (.sym sign') := by
  cases item with
  | none => exact h
  | some n => simpa [opexItemToks] using hsign

/-- The opex items begin with no comma, so they are not taken for Rc. -/
theorem opexToks_head_ne_comma (o : Opex) : (opexToks o ++ [Tok.sym .semi]).head? ≠ some (.sym .comma) := by
  simp only [opexToks, List.append_assoc]
  exact opexItemToks_head_ne _ (by decide) <| opexItemToks_head_ne _ (by decide) <|
    opexItemToks_head_ne _ (by decide) <| opexItemToks_head_ne _ (by decide) (by decide)

/-! ### The whole statement -/

/-- The tokens written for a record are read as that record, where its operation takes its size and only CAS has an Rc. -/
theorem parse_statementToks (hpair : legalPair I.op I.sz = true) (hrc : I.op = .cas ∨ I.rc = .rz) :
    parse (statementToks I) = .ok I := by
  simp only [parse, statementToks, List.append_assoc, List.cons_append, List.nil_append, bind, Except.bind,
    parseGuard_guardToks, parseMnemonic_mnemonicText _ hpair, parsePs_psToks, parseReg_name, parseComma, parseAddr_addrToks,
    addrOf_addrTextOf, parseRc_rcToks hrc (opexToks_head_ne_comma _), parseOpex_opexToks, if_true]

/-! ### The tokens that are written are good ones -/

/-- A word that is not empty and holds bytes of words alone is good. -/
theorem good_word {w : Text} (h : w ≠ [] ∧ w.all isWordByte = true) : (Tok.word w).good = true := by
  obtain ⟨hne, hall⟩ := h
  simpa only [Tok.good, hall, Bool.and_true, Bool.not_eq_true', List.isEmpty_eq_false_iff] using hne

/-- A punctuation sign is good. -/
@[simp] theorem good_sym (p : Sym) : (Tok.sym p).good = true := rfl

/-- A register's name is good. -/
@[simp] theorem good_reg_name (r : Reg) : (Tok.word r.name).good = true := good_word (reg_name_word r)

/-- A predicate's name is good. -/
@[simp] theorem good_pred_name (p : PredReg) : (Tok.word p.name).good = true := good_word (pred_name_word p)

/-- A decimal number is good. -/
@[simp] theorem good_decText (n : Nat) : (Tok.word (decText n)).good = true :=
  good_word ⟨decText_ne_nil n, decText_word n⟩

/-- A mnemonic is good. -/
@[simp] theorem good_mnemonicText (e : Bool) (op : Op) (sz : Sz) : (Tok.word (mnemonicText e op sz)).good = true :=
  good_word (mnemonicText_word e op sz)

/-- The tokens of a guard are good. -/
theorem guardToks_good (g : Guard) : (guardToks g).all Tok.good = true := by
  unfold guardToks
  split
  · rfl
  · cases g.neg <;> simp

/-- The tokens of Ps are good. -/
theorem psToks_good (A : Addr) : (psToks A).all Tok.good = true := by
  cases A <;> simp [psToks]

/-- The tokens of an address are good. -/
theorem addrToks_good (A : Addr) : (addrToks A).all Tok.good = true := by
  cases A <;> simp [addrToks]

/-- The tokens of Rc are good. -/
theorem rcToks_good (op : Op) (rc : Reg) : (rcToks op rc).all Tok.good = true := by
  unfold rcToks
  split <;> simp

/-- The tokens of an opex item are good, where its lead holds bytes of words alone. -/
theorem opexItemToks_good {lead : Text} (sign : Sym) (item : Option Nat) (hlead : lead.all isWordByte = true) :
    (opexItemToks sign lead item).all Tok.good = true := by
  cases item with
  | none => rfl
  | some n =>
    have hword : (Tok.word (lead ++ decText n)).good = true :=
      good_word ⟨by simp [decText_ne_nil], by simp only [List.all_append, hlead, decText_word, Bool.and_true]⟩
    simp [opexItemToks, hword]

/-- The tokens of the opex are good. -/
theorem opexToks_good (o : Opex) : (opexToks o).all Tok.good = true := by
  have hreq : (text "req_").all isWordByte = true := by decide +kernel
  have hrd : (text "rd").all isWordByte = true := by decide +kernel
  have hwr : (text "wr").all isWordByte = true := by decide +kernel
  simp only [opexToks, List.all_append, opexItemToks_good _ _ hreq, opexItemToks_good _ _ hrd, opexItemToks_good _ _ hwr,
    opexItemToks_good (lead := []) _ _ rfl, Bool.and_true]

/-- Every token of a statement is given back by the lexer as it was written. -/
theorem statementToks_good (I : AtomInstr) : (statementToks I).all Tok.good = true := by
  simp [statementToks, -List.all_eq_true, guardToks_good, psToks_good, addrToks_good, rcToks_good, opexToks_good]

/-! ### Reading back an instruction -/

/-- Settles O40: the lexer gives back the tokens that were written, the parser reads the record from them, and the record is the
instruction's. -/
theorem decodeOfEncodeIsTheInstruction : Obligations.DecodeOfEncodeIsTheInstruction := by
  intro i
  obtain ⟨hback, hpair⟩ := recordReadsBack i
  simp only [decode, encode, lex_tokens _ (statementToks_good _), parse_statementToks hpair (record_cas_or_rc_rz i), hback]

/-! ### What is not well formed is refused -/

/-- The first problem of a record is the reason of a check that it fails. -/
theorem firstProblem_mem_checks {why : IllFormed} (h : I.firstProblem numGpr spa = some why) :
    (false, why) ∈ I.checks numGpr spa := by
  obtain ⟨⟨ok, why'⟩, hfind, rfl⟩ := Option.map_eq_some_iff.mp h
  obtain rfl : ok = false := by simpa using List.find?_some hfind
  exact List.mem_of_find?_eq_some hfind

/-- Every instruction is the shared execution of R80 with some event. -/
theorem exec_eq_execChecked (i : Instr) (s : State) : ∃ event, exec i s = execChecked i.record s event := by
  obtain ⟨-, f, hf⟩ | ⟨-, f, hf⟩ | ⟨-, hf⟩ := exec_form i
  · exact ⟨_, hf s⟩
  · exact ⟨_, hf s⟩
  · exact ⟨_, hf s⟩

/-- Settles O21: the first problem is what `exec` refuses with, before it looks at anything of the state. -/
theorem illFormedInstructionIsRefused : Obligations.IllFormedInstructionIsRefused := by
  intro i s hwf
  obtain ⟨why, hwhy⟩ := AtomInstr.firstProblem_of_not_wf hwf
  obtain ⟨event, hexec⟩ := exec_eq_execChecked i s
  exact ⟨why, firstProblem_mem_checks hwhy, by simp only [hexec, execChecked, hwhy]⟩

/-! ### What a well-formed instruction names -/

/-- The registers of a well-formed record exist (R70). -/
theorem registersPresent_of_wf (h : I.wf numGpr spa = true) : I.registersPresent numGpr = true :=
  List.all_eq_true.mp h (I.registersPresent numGpr, .noSuchRegister) (by simp [AtomInstr.checks])

/-- The pairs of a well-formed record begin even (R70). -/
theorem pairsEven_of_wf (h : I.wf numGpr spa = true) : I.pairsEven = true :=
  List.all_eq_true.mp h (I.pairsEven, .oddPair) (by simp [AtomInstr.checks])

/-- A register that exists, and where it is the first of a pair is even with the next existing (R70). -/
def NamesRegister (numGpr : Nat) (isPair : Prop) (r : Reg) : Prop :=
  ∀ n, r = .r n → n < numGpr ∧ (isPair → n % 2 = 0 ∧ n + 1 < numGpr)

/-- `NamesRegister` is what the checks of R70 say of one register. -/
theorem namesRegister_of_checks {isPair : Prop} [Decidable isPair] {r : Reg}
    (hpresent : (if isPair then r.pairPresent numGpr else r.present numGpr) = true) (heven : isPair → r.even = true) :
    NamesRegister numGpr isPair r := by
  rintro n rfl
  split at hpresent
  · next hpair =>
    have hnext : n + 1 < numGpr := of_decide_eq_true hpresent
    exact ⟨by omega, fun _ => ⟨of_decide_eq_true (heven hpair), hnext⟩⟩
  · next hsingle => exact ⟨of_decide_eq_true hpresent, fun hpair => absurd hpair hsingle⟩

/-- Rd, Rb and Rc of a well-formed record are registers of the size's width. -/
theorem namesRegister_data (h : I.wf numGpr spa = true) {r : Reg} (hr : r ∈ [I.rd, I.rb, I.rc]) :
    NamesRegister numGpr (I.sz.bytes = 8) r := by
  obtain ⟨hpresent, -⟩ := (Bool.and_eq_true _ _).mp (registersPresent_of_wf h)
  obtain ⟨heven, -⟩ := (Bool.and_eq_true _ _).mp (pairsEven_of_wf h)
  refine namesRegister_of_checks (List.all_eq_true.mp hpresent r hr) fun h8 => ?_
  rw [h8] at heven
  exact List.all_eq_true.mp heven r hr

/-- The base register of a well-formed record is one of the address's width. -/
theorem namesRegister_base (h : I.wf numGpr spa = true) {r : Reg} (hr : I.addr.base = some r) :
    NamesRegister numGpr (I.common.e = true) r := by
  obtain ⟨-, hpresent⟩ := (Bool.and_eq_true _ _).mp (registersPresent_of_wf h)
  obtain ⟨-, heven⟩ := (Bool.and_eq_true _ _).mp (pairsEven_of_wf h)
  rw [hr] at hpresent heven
  refine namesRegister_of_checks hpresent fun he => ?_
  rw [he] at heven
  exact heven

/-- Settles O23: what the checks of R70 say of each operand. -/
theorem pairsBeginEvenAndExist : Obligations.PairsBeginEvenAndExist := by
  intro i numGpr spa hwf
  refine ⟨fun n hn => ?_, fun n hn => namesRegister_base hwf hn n rfl⟩
  refine namesRegister_data hwf (r := .r n) ?_ n rfl
  simpa [eq_comm] using hn

/-! ### The version -/

/-- Version 3.5, from which on the starred pairs are available (R63). -/
def spa35 : SpaVersion := ⟨3, 5⟩

/-- The only check that reads the version is that of the starred pairs (R63). -/
theorem wf_eq_version_and_wf (I : AtomInstr) (numGpr : Nat) (spa : SpaVersion) :
    I.wf numGpr spa = ((!starredPair I.op I.sz || spa.atLeast spa35) && I.wf numGpr spa35) := by
  have h35 : spa35.atLeast ⟨3, 5⟩ = true := by decide
  simp only [AtomInstr.wf, AtomInstr.checks, List.all_cons, h35, Bool.or_true, Bool.true_and]
  exact Bool.and_left_comm ..

/-- The versions from 3.5 on are those that are not below it (R63, log 22). -/
theorem atLeast_spa35_iff : spa.atLeast spa35 = true ↔ ¬(spa.major < 3 ∨ spa.major = 3 ∧ spa.minor < 5) := by
  have hdef : spa.atLeast spa35 =
      (decide (3 < spa.major) || (decide (spa.major = 3) && decide (5 ≤ spa.minor))) := rfl
  simp only [hdef, Bool.or_eq_true, Bool.and_eq_true, decide_eq_true_eq]
  omega

/-- The eight starred pairs (R62). -/
theorem starredPair_iff : starredPair op sz = true ↔ (op, sz) ∈
    [(Op.min, Sz.u64), (.min, .s64), (.max, .u64), (.max, .s64), (.and, .u64), (.or, .u64), (.xor, .u64), (.safeAdd, .u64)] := by
  cases op <;> cases sz <;> decide

/-- Settles O24: the version decides a starred pair alone, and there only whether it is 3.5 or higher. -/
theorem starredPairsNeedSpa35 : Obligations.StarredPairsNeedSpa35 := by
  intro i numGpr spa spa'
  simp only [Instr.wf, wf_eq_version_and_wf i.record numGpr spa, wf_eq_version_and_wf i.record numGpr spa',
    ← starredPair_iff, ← atLeast_spa35_iff, Bool.and_eq_true]
  refine ⟨fun hstarred hlow => ?_, fun hhigh ⟨_, hwf⟩ => ⟨?_, hwf⟩, fun hplain => ?_⟩
  · have hversion : spa.atLeast spa35 = false := Bool.eq_false_iff.mpr fun h => atLeast_spa35_iff.mp h hlow
    rw [hstarred, hversion]
    rfl
  · rw [hhigh, Bool.or_true]
  · rw [Bool.eq_false_iff.mpr hplain]
    rfl

/-! ### The binary Ps field -/

/-- The bits of a 3-bit field inverted are 7 less the field. -/
theorem toNat_not_field (f : BitVec 3) : (~~~f).toNat = 7 - f.toNat := BitVec.toNat_not

/-- The number of a predicate fits the field. -/
theorem number_le (ps : PredReg) : ps.number ≤ 7 := by
  cases ps with
  | p k => exact Nat.le_of_lt k.isLt
  | pt => exact Nat.le_refl 7

/-- The field holds 7 less the predicate's number (R67). -/
theorem psField_toNat (ps : PredReg) : (psField ps).toNat = 7 - ps.number := by
  have hle := number_le ps
  rw [psField, toNat_not_field, BitVec.toNat_ofNat, Nat.mod_eq_of_lt (by omega)]

/-- The field of a predicate names that predicate. -/
theorem psOfField_psField (ps : PredReg) : psOfField (psField ps) = ps := by
  cases ps with
  | p k => revert k; decide
  | pt => rfl

/-- The number of the predicate that a field names. -/
theorem psOfField_number (f : BitVec 3) : (psOfField f).number = (~~~f).toNat := by
  unfold psOfField
  split
  · rfl
  · next h =>
    show 7 = (~~~f).toNat
    omega

/-- Settles O31: two complements cancel. -/
theorem psFieldIsBitInverted : Obligations.PsFieldIsBitInverted := by
  refine ⟨fun ps => ⟨psField_toNat ps, psOfField_psField ps⟩, fun f => ?_⟩
  rw [psField, psOfField_number, BitVec.ofNat_toNat, BitVec.setWidth_eq, BitVec.not_not]

/-! ### The spellings of the page -/

/-- Settles O41: the decoder is run on each of the five statements. -/
theorem exampleStatementsAreReadRight : Obligations.ExampleStatementsAreReadRight := by
  unfold Obligations.ExampleStatementsAreReadRight
  decide +kernel

/-- Settles O42: the decoder is run on each spelling, and on each refused statement. -/
theorem sizeSpellingsAreRead : Obligations.SizeSpellingsAreRead := by
  unfold Obligations.SizeSpellingsAreRead
  decide +kernel

end Sys2Proof.Proofs
end

section
/-!
PROOFS. The statements of 40_atom_common.md: which threads execute an instruction, what an instruction does to a thread that does not
execute it or whose access is in error, the effective addresses, and what a step makes of the statement at the pc.
-/

namespace Sys2Proof.Proofs

open Sys2Proof.Machine Sys2Proof.Claims

variable {I : AtomInstr} {i : Instr} {L : Launch} {s s' : State} {th th' : Thread} {regs : Store 32} {text : Text}

/-! ### The guard and participation -/

/-- The guard, either way: PT reads 1, and `!` negates (R81). -/
theorem guardTrue_eq_iff {g : Guard} {preds : Vector Bool 7} {b : Bool} : guardTrue g preds = b ↔
    (g.pg = .pt ∧ g.neg = !b) ∨ ∃ k, g.pg = .p k ∧ (preds[k.val] ^^ g.neg) = b := by
  unfold guardTrue
  cases g.pg with
  | pt => cases b <;> simp
  | p k => simp [readPred]

/-- A thread takes no part exactly where it is a helper or a killed pixel of a pixel shader (R82). -/
theorem participates_eq_false_iff : participates L th = false ↔
    L.isPixelShader = true ∧ (th.helper = true ∨ th.killed = true) := by
  simp only [participates, Bool.not_eq_false', Bool.and_eq_true, Bool.or_eq_true]

/-- Settles O17: the guard and participation, each by its own lemma. -/
theorem executesWhenGuardTrueAndParticipating : Obligations.ExecutesWhenGuardTrueAndParticipating := by
  intro L th I
  rw [active, Bool.and_eq_true, guardTrue_eq_iff, ← participates_eq_false_iff, Bool.not_eq_false]
  simp only [Bool.not_true, bne_iff_ne]

/-! ### An instruction that is not executed, and one whose access is in error -/

/-- A well-formed instruction that the thread does not execute only advances its pc (R81, R82, R91). -/
theorem exec_inactive_onlyPcAdvances (hth : s.thread = some th) (hwf : i.wf s.launch.numGpr s.launch.spa = true)
    (ha : active s.launch th i.record = false) : ∃ t, exec i s = .next t ∧ OnlyPcAdvances s t th := by
  obtain ⟨event, hexec⟩ := exec_eq_execChecked i s
  exact ⟨_, hexec.trans (execChecked_inactive hwf hth ha), rfl⟩

/-- Settles O15: such a guard is false, so the thread does not execute the instruction. -/
theorem falseGuardOnlyAdvancesPc : Obligations.FalseGuardOnlyAdvancesPc := by
  intro i s th hth hwf hguard
  have hfalse : guardTrue i.record.common.guard th.preds = false :=
    guardTrue_eq_iff.mpr (hguard.imp_right fun ⟨k, hk, hsense⟩ => ⟨k, hk, by simp [hsense]⟩)
  exact exec_inactive_onlyPcAdvances hth hwf (by simp [active, hfalse])

/-- Settles O16: such a thread does not execute the instruction, whatever its guard. -/
theorem helperOrKilledPixelOnlyAdvancesPc : Obligations.HelperOrKilledPixelOnlyAdvancesPc := by
  refine ⟨fun L th => participates_eq_false_iff, fun i s th hth hwf hshader hpixel => ?_⟩
  have hout : participates s.launch th = false := participates_eq_false_iff.mpr ⟨hshader, hpixel⟩
  exact exec_inactive_onlyPcAdvances hth hwf (by simp [active, hout])

/-- Taking an error replaces the executing thread, and leaves the others and the launch alone (R166). -/
theorem raiseError_othersSame (s : State) (th : Thread) (e : ErrorKind) (es : List ErrorKind) (ea : DWord) :
    OthersSame s (raiseError s th e es ea) :=
  ⟨rfl, rfl, rfl, by simp, fun _ hk => setThread_other hk _⟩

/-- Settles O18: the list of errors that apply is not empty, and `exec` records a member of it. -/
theorem addressErrorIsRecordedAloneWithItsAddress : Obligations.AddressErrorIsRecordedAloneWithItsAddress := by
  rintro i s th hth hwf ha ⟨e₀, happlies⟩
  obtain ⟨event, hexec⟩ := exec_eq_execChecked i s
  obtain ⟨e, es, herrors⟩ := List.exists_cons_of_ne_nil (List.ne_nil_of_mem (mem_applicableErrors_iff.mpr happlies))
  have hchosen : chooseError e es s.draws ∈
      applicableErrors s.launch (effectiveAddress i.record th.regs) i.record.sz.bytes := herrors ▸ chooseError_mem e es s.draws
  exact ⟨_, _, mem_applicableErrors_iff.mp hchosen, hexec.trans (execChecked_error hwf hth ha herrors),
    setThread_thread hth _, rfl, raiseError_othersSame s th e es _⟩

/-! ### Effective addresses -/

/-- A value of at most 40 bits keeps its number when it is zero-extended (R84, R86). -/
theorem toNat_zext40 {w : Nat} (hw : w ≤ 40) (a : BitVec w) : (zext40 a).toNat = a.toNat := by
  have ha : a.toNat < 2 ^ 40 := Nat.lt_of_lt_of_le a.isLt (Nat.pow_le_pow_right (by decide) hw)
  rw [zext40, BitVec.toNat_setWidth, BitVec.toNat_setWidth, Nat.mod_eq_of_lt ha, Nat.mod_eq_of_lt (by omega)]

/-- The sum with a sign-extended offset is the sum with its signed value, wrapped. -/
theorem toNat_add_signExtend {v w : Nat} (a : BitVec w) (offset : BitVec v) :
    ((a + offset.signExtend w).toNat : Int) = ((a.toNat : Int) + offset.toInt).emod (2 ^ w) := by
  have hval : (offset.signExtend w).toNat = (offset.toInt % (2 ^ w : Nat)).toNat := BitVec.toNat_ofInt ..
  have hpos : (0 : Int) < (2 ^ w : Nat) := by positivity
  rw [BitVec.toNat_add, hval, Int.natCast_mod, Nat.cast_add, Int.toNat_of_nonneg (Int.emod_nonneg _ hpos.ne'),
    Int.add_emod_emod]
  norm_cast

/-- The address of form RI without `.E` (R84). -/
theorem effectiveAddress_ri_word {ra : Reg} {imm : BitVec 20} (h : I.addr = .ri ra imm) (he : I.common.e = false) :
    effectiveAddress I regs = zext40 (readReg regs ra + imm.signExtend 32) := by
  simp [effectiveAddress, h, he]

/-- The address of form RI with `.E` (R85). -/
theorem effectiveAddress_ri_pair {ra : Reg} {imm : BitVec 20} (h : I.addr = .ri ra imm) (he : I.common.e = true) :
    effectiveAddress I regs = readPair regs ra + imm.signExtend 64 := by
  simp [effectiveAddress, h, he]

/-- Settles O26: each sum by `toNat_add_signExtend`; zero-extending the one of 32 bits keeps its number. -/
theorem registerFormAddressIsTheWrappedSum : Obligations.RegisterFormAddressIsTheWrappedSum := by
  intro I regs ra imm h
  refine ⟨fun he => ?_, fun he => ?_⟩
  · rw [effectiveAddress_ri_word h he, toNat_zext40 (by decide), toNat_add_signExtend]
  · rw [effectiveAddress_ri_pair h he, toNat_add_signExtend]

/-- The address of form ABS, as a number: `.E` makes no difference (R86). -/
theorem toNat_effectiveAddress_abs {imm : BitVec 20} (h : I.addr = .abs imm) :
    (effectiveAddress I regs).toNat = imm.toNat := by
  cases he : I.common.e with
  | false => simp [effectiveAddress, h, he, toNat_zext40]
  | true => simpa only [effectiveAddress, h, he, if_true] using BitVec.toNat_setWidth_of_le (by decide)

/-- The address of form SP (R87, R152). -/
theorem effectiveAddress_sp {ps : PredReg} {ra : Reg} (h : I.addr = .sp ps ra) :
    effectiveAddress I regs = if I.common.e then readPair regs ra else zext40 (readReg regs ra) := by
  simp [effectiveAddress, h]

/-- Settles O27: by form, and in form SP by `.E`. -/
theorem absoluteAndSparseAddressesAreUnshifted : Obligations.AbsoluteAndSparseAddressesAreUnshifted := by
  refine fun I regs => ⟨fun imm h => toNat_effectiveAddress_abs h, fun ps ra h he => ?_, fun ps ra h he => ?_⟩
  · rw [effectiveAddress_sp h, if_neg (by simp [he]), toNat_zext40 (by decide)]
  · rw [effectiveAddress_sp h, if_pos he]

/-! ### The statement at the pc -/

/-- Statement number `k` is the one at pc `k * ILEN` (R15, log 9). -/
theorem fetchText_mul {k : Nat} (hlen : 0 < L.ilen) : fetchText L (k * L.ilen) = L.program[k]? := by
  simp [fetchText, hlen]

/-- The step is what the choice makes of the thread that steps (R172). -/
theorem step_eq_act {t : Nat} (h : steppingThread s = some t) : step s = act (nextChoice s).act (runAs s t) := by
  unfold steppingThread at h
  simp only [step, stepThreads, h]

/-- In program order no event goes ahead, whatever the choice says (R38). -/
theorem act_eq_act_run {a : Act} (h : a = .run ∨ s.launch.ordering = .programOrder) : act a s = act .run s := by
  obtain rfl | horder := h
  · rfl
  · simp [act, horder]

/-- The instruction at the pc goes on as `exec` says where it raises no error and, if executed, shares no byte with a later event that
went ahead: of those there may be none. -/
theorem act_run_untaken (hth : s.thread = some th) (hf : fetchText s.launch th.pc = some text) (hd : decode text = .ok i)
    (hnone : ∀ e ∈ th.early, e.pc ≠ th.pc) (hexec : exec i s = .next s') (hth' : s'.thread = some th')
    (hfault : th'.fault = none) (hapart : active s.launch th i.record = true →
      ∀ e ∈ th.early, Apart e.address e.bytes (effectiveAddress i.record th.regs) i.record.sz.bytes) :
    act .run s = .next s' := by
  by_cases hearly : th.early = []
  · rw [act_run_exec hth hf hd hearly, hexec]
  · rw [act_run hth, goOn_behind hf hd (taken_eq_none_iff.mpr hnone) hearly]
    have hmeets : active s.launch th i.record = true →
        ∀ e ∈ th.early, e.meets (effectiveAddress i.record th.regs) i.record.sz.bytes = false :=
      fun ha e he => overlap_eq_false.mpr (hapart ha e he)
    simpa [execBehind, hexec, hth', hfault] using hmeets

/-- The first event that stands at the pc is the one that is taken there. -/
theorem taken_of_append {before after : List Early} {e : Early} (hearly : th.early = before ++ e :: after)
    (hbefore : ∀ d ∈ before, d.pc ≠ th.pc) (hpc : e.pc = th.pc) : th.taken = some e := by
  have hskip : before.find? (fun d => d.pc == th.pc) = none := by simpa using hbefore
  simp [Thread.taken, hearly, List.find?_append, hskip, hpc]

/-- Settling the first event that stands at the pc takes that one from the list. -/
theorem settle_of_append {before after : List Early} {e : Early} (hearly : th.early = before ++ e :: after)
    (hbefore : ∀ d ∈ before, d.pc ≠ th.pc) (hpc : e.pc = th.pc) : settle L e th = { th with
      regs := writeRegs e.regs th.regs, preds := writePreds e.preds th.preds, pc := th.pc + L.ilen, early := before ++ after } := by
  have hnot : e ∉ before := fun he => hbefore e he hpc
  rw [settle, advancePc, hearly, List.erase_append_right _ hnot, List.erase_cons_head]

/-- Where the event of the instruction at the pc went ahead, the thread settles it. -/
theorem act_run_taken {e : Early} (hth : s.thread = some th) (hf : fetchText s.launch th.pc = some text)
    (hd : decode text = .ok i) (htaken : th.taken = some e) : act .run s = .next (s.setThread (settle s.launch e th)) := by
  simp [act_run hth, goOn, hf, hd, htaken]

/-- Settles O43: the step is the thread that steps going on at its pc, in each of the three cases of its events ahead of their turn. -/
theorem stepRunsTheDecodedInstruction : Obligations.StepRunsTheDecodedInstruction := by
  intro s t th k w i hstepping hth hchoice hlen hpc hw hd
  have hth : (runAs s t).thread = some th := (runAs_thread s t).trans hth
  have hf : fetchText (runAs s t).launch th.pc = some w := by rw [runAs_launch, hpc, fetchText_mul hlen, hw]
  have hstep : step s = act .run (runAs s t) :=
    (step_eq_act hstepping).trans (act_eq_act_run (by rwa [runAs_launch]))
  rw [hstep]
  refine ⟨act_run_exec hth hf hd, ?_, ?_⟩
  · intro hnone s' th' hexec hth' hfault hapart
    exact act_run_untaken hth hf hd hnone hexec hth' hfault (by rwa [runAs_launch])
  · intro before e after hearly hbefore hepc
    rw [act_run_taken hth hf hd (taken_of_append hearly hbefore hepc), settle_of_append hearly hbefore hepc, runAs_launch]
    rfl

end Sys2Proof.Proofs
end


section
/-!
PROOFS. The statements of 41_atom_ops.md about the ten operations: what each of them stores and returns, in its sizes and in the three
forms, and where SAFEADD is refused.
-/

namespace Sys2Proof.Proofs

open Sys2Proof.Machine Sys2Proof.Claims

variable {i : Instr} {ri : RiForm} {ab : AbsForm} {sp : SpForm} {w : Nat}

/-! ### What an instruction stores and returns -/

/-- A pair read where it was written is the value written (R12). -/
theorem readPair_writePair_same (regs : Store 32) (n : Nat) (v : DWord) : readPair (writePair regs (.r n) v) (.r n) = v := by
  rw [readPair_eq_append, readReg_writePair_high, readReg_writePair_low, dword_of_words]

/-- An instruction that is the shared execution on 4 bytes stores what its operation function gives and returns the old word (R80,
steps 7 and 8). -/
theorem stores32_of_exec {f : Word → Word → Word → Word} (hb : i.record.sz.bytes = 4)
    (hf : ∀ s, exec i s = atom32 i f s) : Stores32 i f := by
  refine ⟨hb, fun s th hr => ⟨_, _, (hf s).trans (atom32_ready hr f), perform32_thread hr.1 f _, ?_, fun n hn => ?_⟩⟩
  · rw [perform32_mem, read32_write32_same]
  · rw [retire_regs, hn, readReg_writeReg, if_pos rfl]

/-- The same on 8 bytes, with pairs. -/
theorem stores64_of_exec {f : DWord → DWord → DWord → DWord} (hb : i.record.sz.bytes = 8)
    (hf : ∀ s, exec i s = atom64 i f s) : Stores64 i f := by
  refine ⟨hb, fun s th hr => ⟨_, _, (hf s).trans (atom64_ready hr f), perform64_thread hr.1 f _, ?_, fun n hn => ?_⟩⟩
  · rw [perform64_mem, read64_write64_same]
  · rw [retire_regs, hn, readPair_writePair_same]

/-- The three forms of one operation and size access `n` bytes, as their records say. -/
structure FormsAccess (n : Nat) (ri : RiForm) (ab : AbsForm) (sp : SpForm) : Prop where
  onRi : ∀ c rd ra imm rb, (ri c rd ra imm rb).record.sz.bytes = n := by intros; rfl
  onAbs : ∀ c rd imm rb, (ab c rd imm rb).record.sz.bytes = n := by intros; rfl
  onSp : ∀ c ps rd ra rb, (sp c ps rd ra rb).record.sz.bytes = n := by intros; rfl

/-- The three forms of a 4-byte operation complete with any function that agrees with the operation function `g` of their meanings. -/
theorem forms32_of_exec {f g : Word → Word → Word} (hfg : ∀ m b, g m b = f m b)
    (hri : ∀ c rd ra imm rb s, exec (ri c rd ra imm rb) s = atom32 (ri c rd ra imm rb) (fun m b _ => g m b) s)
    (hab : ∀ c rd imm rb s, exec (ab c rd imm rb) s = atom32 (ab c rd imm rb) (fun m b _ => g m b) s)
    (hsp : ∀ c ps rd ra rb s, exec (sp c ps rd ra rb) s = atom32 (sp c ps rd ra rb) (fun m b _ => g m b) s)
    (hb : FormsAccess 4 ri ab sp := by exact {}) : Forms32 ri ab sp f := by
  obtain rfl : g = f := funext₂ hfg
  exact ⟨fun c rd ra imm rb => stores32_of_exec (hb.onRi ..) (hri c rd ra imm rb),
    fun c rd imm rb => stores32_of_exec (hb.onAbs ..) (hab c rd imm rb),
    fun c ps rd ra rb => stores32_of_exec (hb.onSp ..) (hsp c ps rd ra rb)⟩

/-- The same for an 8-byte operation. -/
theorem forms64_of_exec {f g : DWord → DWord → DWord} (hfg : ∀ m b, g m b = f m b)
    (hri : ∀ c rd ra imm rb s, exec (ri c rd ra imm rb) s = atom64 (ri c rd ra imm rb) (fun m b _ => g m b) s)
    (hab : ∀ c rd imm rb s, exec (ab c rd imm rb) s = atom64 (ab c rd imm rb) (fun m b _ => g m b) s)
    (hsp : ∀ c ps rd ra rb s, exec (sp c ps rd ra rb) s = atom64 (sp c ps rd ra rb) (fun m b _ => g m b) s)
    (hb : FormsAccess 8 ri ab sp := by exact {}) : Forms64 ri ab sp f := by
  obtain rfl : g = f := funext₂ hfg
  exact ⟨fun c rd ra imm rb => stores64_of_exec (hb.onRi ..) (hri c rd ra imm rb),
    fun c rd imm rb => stores64_of_exec (hb.onAbs ..) (hab c rd imm rb),
    fun c ps rd ra rb => stores64_of_exec (hb.onSp ..) (hsp c ps rd ra rb)⟩

/-! ### The operation functions -/

/-- The integer sum written with its wrap (R132). -/
theorem aluAdd_eq_wrapped (m b : BitVec w) : aluAdd m b = BitVec.ofNat w ((m.toNat + b.toNat) % 2 ^ w) :=
  BitVec.eq_of_toNat_eq (by simp [aluAdd])

/-- INC below the bound adds one to the number (R117). -/
theorem aluInc_eq (m b : Word) : aluInc m b = if m.toNat ≥ b.toNat then 0#32 else BitVec.ofNat 32 (m.toNat + 1) := by
  rw [aluInc, BitVec.add_def]
  rfl

/-- DEC within the bound takes one from the number, which is not zero (R118). -/
theorem aluDec_eq (m b : Word) :
    aluDec m b = if m = 0#32 ∨ m.toNat > b.toNat then b else BitVec.ofNat 32 (m.toNat - 1) := by
  unfold aluDec
  refine if_ctx_congr Iff.rfl (fun _ => rfl) fun hstays => ?_
  have hpos : m ≠ 0#32 := fun h0 => hstays (.inl h0)
  bv_omega

/-- Bit by bit determines the conjunction (R119). -/
theorem aluAnd_eq_of_bits {f : BitVec w → BitVec w → BitVec w}
    (h : ∀ m b i, (f m b).getLsbD i = (m.getLsbD i && b.getLsbD i)) (m b : BitVec w) : aluAnd m b = f m b :=
  BitVec.eq_of_getLsbD_eq fun i _ => by rw [aluAnd, BitVec.getLsbD_and, h]

/-- Bit by bit determines the disjunction (R122). -/
theorem aluOr_eq_of_bits {f : BitVec w → BitVec w → BitVec w}
    (h : ∀ m b i, (f m b).getLsbD i = (m.getLsbD i || b.getLsbD i)) (m b : BitVec w) : aluOr m b = f m b :=
  BitVec.eq_of_getLsbD_eq fun i _ => by rw [aluOr, BitVec.getLsbD_or, h]

/-- Bit by bit determines the exclusive disjunction (R125). -/
theorem aluXor_eq_of_bits {f : BitVec w → BitVec w → BitVec w}
    (h : ∀ m b i, (f m b).getLsbD i = (m.getLsbD i ^^ b.getLsbD i)) (m b : BitVec w) : aluXor m b = f m b :=
  BitVec.eq_of_getLsbD_eq fun i _ => by rw [aluXor, BitVec.getLsbD_xor, h]

/-! ### The statements about the operations -/

/-- Settles O1: the wrapped sum is the operation function of all three sizes. -/
theorem addIntegerStoresWrappedSum : Obligations.AddIntegerStoresWrappedSum :=
  ⟨forms32_of_exec aluAdd_eq_wrapped exec_addU32Ri exec_addU32Abs exec_addU32Sp,
    forms32_of_exec aluAdd_eq_wrapped exec_addS32Ri exec_addS32Abs exec_addS32Sp,
    forms64_of_exec aluAdd_eq_wrapped exec_addU64Ri exec_addU64Abs exec_addU64Sp⟩

/-- Settles O2: `fadd32` is the operation function. -/
theorem addF32StoresNumSum : Obligations.AddF32StoresNumSum :=
  forms32_of_exec (fun _ _ => rfl) exec_addF32Ri exec_addF32Abs exec_addF32Sp

/-- Settles O3: the operation function is `fadd16` on the halves. -/
theorem addF16x2AddsEachHalf : Obligations.AddF16x2AddsEachHalf :=
  forms32_of_exec (fun _ _ => rfl) exec_addF16x2Ri exec_addF16x2Abs exec_addF16x2Sp

/-- Settles O4: `fadd64` is the operation function. -/
theorem addF64StoresNumSum : Obligations.AddF64StoresNumSum :=
  forms64_of_exec (fun _ _ => rfl) exec_addF64Ri exec_addF64Abs exec_addF64Sp

/-- Settles O5: unsigned and signed minimum, each in its two sizes. -/
theorem minIntegerStoresSmaller : Obligations.MinIntegerStoresSmaller :=
  ⟨forms32_of_exec (fun _ _ => rfl) exec_minU32Ri exec_minU32Abs exec_minU32Sp,
    forms32_of_exec (fun _ _ => rfl) exec_minS32Ri exec_minS32Abs exec_minS32Sp,
    forms64_of_exec (fun _ _ => rfl) exec_minU64Ri exec_minU64Abs exec_minU64Sp,
    forms64_of_exec (fun _ _ => rfl) exec_minS64Ri exec_minS64Abs exec_minS64Sp⟩

/-- Settles O6: unsigned and signed maximum, each in its two sizes. -/
theorem maxIntegerStoresLarger : Obligations.MaxIntegerStoresLarger :=
  ⟨forms32_of_exec (fun _ _ => rfl) exec_maxU32Ri exec_maxU32Abs exec_maxU32Sp,
    forms32_of_exec (fun _ _ => rfl) exec_maxS32Ri exec_maxS32Abs exec_maxS32Sp,
    forms64_of_exec (fun _ _ => rfl) exec_maxU64Ri exec_maxU64Abs exec_maxU64Sp,
    forms64_of_exec (fun _ _ => rfl) exec_maxS64Ri exec_maxS64Abs exec_maxS64Sp⟩

/-- Settles O7: the operation functions are `fmin16` and `fmax16` on the halves. -/
theorem minMaxF16x2TakeEachHalf : Obligations.MinMaxF16x2TakeEachHalf :=
  ⟨forms32_of_exec (fun _ _ => rfl) exec_minF16x2Ri exec_minF16x2Abs exec_minF16x2Sp,
    forms32_of_exec (fun _ _ => rfl) exec_maxF16x2Ri exec_maxF16x2Abs exec_maxF16x2Sp⟩

/-- The operation and the size of an instruction are a pair of the opcode table (R62). -/
theorem legalPair_record (i : Instr) : legalPair i.record.op i.record.sz = true := (recordReadsBack i).2

/-- The only size of INC and of DEC is `.U32` (R117, R118). -/
theorem sz_eq_u32_of_legalPair {op : Op} {sz : Sz} (h : legalPair op sz = true) (hop : op = .inc ∨ op = .dec) : sz = .u32 := by
  revert h
  obtain rfl | rfl := hop <;> cases sz <;> decide

/-- Settles O8: `aluInc` is the operation function, and the opcode table gives INC one size. -/
theorem incCountsUpToBound : Obligations.IncCountsUpToBound :=
  ⟨forms32_of_exec aluInc_eq exec_incU32Ri exec_incU32Abs exec_incU32Sp,
    fun i hop => sz_eq_u32_of_legalPair (legalPair_record i) (.inl hop)⟩

/-- Settles O9: `aluDec` is the operation function, and the opcode table gives DEC one size. -/
theorem decCountsDownFromBound : Obligations.DecCountsDownFromBound :=
  ⟨forms32_of_exec aluDec_eq exec_decU32Ri exec_decU32Abs exec_decU32Sp,
    fun i hop => sz_eq_u32_of_legalPair (legalPair_record i) (.inr hop)⟩

/-- Settles O10: a function with the bits of the operation function is the operation function. -/
theorem logicWorksBitByBit : Obligations.LogicWorksBitByBit := by
  refine ⟨fun f h => ⟨?_, ?_⟩, fun f h => ?_, fun f h => ⟨?_, ?_⟩, fun f h => ?_, fun f h => ⟨?_, ?_⟩, fun f h => ?_⟩
  · exact forms32_of_exec (aluAnd_eq_of_bits h) exec_andU32Ri exec_andU32Abs exec_andU32Sp
  · exact forms32_of_exec (aluAnd_eq_of_bits h) exec_andS32Ri exec_andS32Abs exec_andS32Sp
  · exact forms64_of_exec (aluAnd_eq_of_bits h) exec_andU64Ri exec_andU64Abs exec_andU64Sp
  · exact forms32_of_exec (aluOr_eq_of_bits h) exec_orU32Ri exec_orU32Abs exec_orU32Sp
  · exact forms32_of_exec (aluOr_eq_of_bits h) exec_orS32Ri exec_orS32Abs exec_orS32Sp
  · exact forms64_of_exec (aluOr_eq_of_bits h) exec_orU64Ri exec_orU64Abs exec_orU64Sp
  · exact forms32_of_exec (aluXor_eq_of_bits h) exec_xorU32Ri exec_xorU32Abs exec_xorU32Sp
  · exact forms32_of_exec (aluXor_eq_of_bits h) exec_xorS32Ri exec_xorS32Abs exec_xorS32Sp
  · exact forms64_of_exec (aluXor_eq_of_bits h) exec_xorU64Ri exec_xorU64Abs exec_xorU64Sp

/-- Settles O11: the operation function gives back Rb, which is read before Rd is written. -/
theorem exchStoresRb : Obligations.ExchStoresRb :=
  ⟨forms32_of_exec (fun _ _ => rfl) exec_exchU32Ri exec_exchU32Abs exec_exchU32Sp,
    forms32_of_exec (fun _ _ => rfl) exec_exchS32Ri exec_exchS32Abs exec_exchS32Sp,
    forms64_of_exec (fun _ _ => rfl) exec_exchU64Ri exec_exchU64Abs exec_exchU64Sp⟩

/-! ### SAFEADD -/

/-- The only size of SAFEADD is `.U64` (R131). -/
theorem sz_eq_u64_of_legalPair {sz : Sz} (h : legalPair .safeAdd sz = true) : sz = .u64 := by
  revert h
  cases sz <;> decide

/-- SAFEADD of every form is the shared execution with a refusal for its event (R131). -/
theorem exec_of_safeAdd (hop : i.record.op = .safeAdd) (s : State) :
    exec i s = execChecked i.record s fun _ _ => .refused .safeAddFormula := by
  have hsz : i.record.sz = .u64 := sz_eq_u64_of_legalPair (hop ▸ legalPair_record i)
  have hi := record_toInstr? i
  simp only [AtomInstr.toInstr?, hop, hsz, Option.some.injEq] at hi
  split at hi <;> rw [← hi] <;> rfl

/-- Settles O14: steps 1 to 6 are those of every instruction, and the event is the refusal. -/
theorem safeAddIsRefusedAtItsEvent : Obligations.SafeAddIsRefusedAtItsEvent := by
  intro i hop s th hth hwf
  exact ⟨exec_inactive_onlyPcAdvances hth hwf, addressErrorIsRecordedAloneWithItsAddress i s th hth hwf,
    fun hr => (exec_of_safeAdd hop s).trans (execChecked_ready hr)⟩

end Sys2Proof.Proofs
end

section
/-!
PROOFS. The statements of 41_atom_ops.md about the numerics record NUM: patterns as sign and magnitude, the order of their values,
the exact sum and its one rounding, infinities and NaNs, flushing, and the minimum and maximum of halves.
-/

namespace Sys2Proof.Proofs

open Sys2Proof.Machine Sys2Proof.Claims

variable {F : FloatFormat} {x y z mag n k q r : Nat} {neg : Bool}

/-! ### A pattern is a sign and a magnitude -/

/-- Above the infinity there is one more fraction's worth of patterns: the NaNs (R133). -/
theorem infinity_add_eq_signBit (F : FloatFormat) : F.infinity + 2 ^ F.fracBits = F.signBit := by
  rw [FloatFormat.infinity, FloatFormat.signBit, ← Nat.succ_mul, Nat.pow_add]
  congr 1
  exact Nat.sub_add_cancel Nat.one_le_two_pow

theorem infinity_lt_signBit (F : FloatFormat) : F.infinity < F.signBit := by
  rw [← infinity_add_eq_signBit]
  exact Nat.lt_add_of_pos_right (Nat.two_pow_pos _)

theorem signBit_pos (F : FloatFormat) : 0 < F.signBit := Nat.two_pow_pos _

theorem magnitude_lt_signBit (F : FloatFormat) (x : Nat) : F.magnitude x < F.signBit := Nat.mod_lt _ (signBit_pos F)

theorem magnitude_signed (h : mag < F.signBit) : F.magnitude (F.signed neg mag) = mag := by
  cases neg <;> simp [FloatFormat.magnitude, FloatFormat.signed, Nat.mod_eq_of_lt h]

theorem negative_signed (h : mag < F.signBit) : F.negative (F.signed neg mag) = neg := by
  cases neg <;> simp [FloatFormat.negative, FloatFormat.signed, Nat.add_div_left, signBit_pos, Nat.div_eq_of_lt h]

theorem signed_lt (h : mag < F.signBit) : F.signed neg mag < 2 * F.signBit := by
  unfold FloatFormat.signed
  split <;> omega

/-- A pattern is put together again from its sign and its magnitude. -/
theorem signed_negative_magnitude (h : x < 2 * F.signBit) : F.signed (F.negative x) (F.magnitude x) = x := by
  have hsign : x / F.signBit < 2 := Nat.div_lt_of_lt_mul (by rwa [Nat.mul_comm])
  have hx := Nat.div_add_mod x F.signBit
  unfold FloatFormat.signed FloatFormat.negative FloatFormat.magnitude
  obtain h0 | h1 := Nat.le_one_iff_eq_zero_or_eq_one.mp (Nat.le_of_lt_succ hsign)
  · simpa [h0] using hx
  · simpa [h1] using hx

/-! ### The value of a magnitude -/

/-- A magnitude with exponent step `k` and significand `q` is worth `q * 2^k`; the significand that has just overflowed is the next
exponent's least one. -/
theorem units_encode (hq : q ≤ 2 * 2 ^ F.fracBits) (hk : k = 0 ∨ 2 ^ F.fracBits ≤ q) :
    F.units (k * 2 ^ F.fracBits + q) = q * 2 ^ k := by
  have hP : 0 < 2 ^ F.fracBits := Nat.two_pow_pos _
  unfold FloatFormat.units
  generalize 2 ^ F.fracBits = P at *
  obtain hsub | ⟨f, rfl⟩ : q < P ∨ ∃ f, q = P + f := (Nat.lt_or_ge q P).imp_right Nat.exists_eq_add_of_le
  · obtain rfl : k = 0 := by omega
    simp [hsub]
  · have hsplit : k * P + (P + f) = f + P * (k + 1) := by ring
    rw [if_neg (by nlinarith), hsplit, Nat.add_mul_mod_self_left, Nat.add_mul_div_left _ _ hP]
    obtain hf | rfl : f < P ∨ f = P := by omega
    · simp [Nat.mod_eq_of_lt hf, Nat.div_eq_of_lt hf]
    · simp [Nat.div_self hP, Nat.add_comm 1, pow_succ]
      ring

/-- Every magnitude has such an exponent step and a significand below the overflow. -/
theorem exists_encode (F : FloatFormat) (mag : Nat) :
    ∃ k q, mag = k * 2 ^ F.fracBits + q ∧ q < 2 * 2 ^ F.fracBits ∧ (k = 0 ∨ 2 ^ F.fracBits ≤ q) := by
  have hP : 0 < 2 ^ F.fracBits := Nat.two_pow_pos _
  generalize 2 ^ F.fracBits = P at *
  obtain hlow | ⟨j, hj⟩ : mag / P = 0 ∨ ∃ j, mag / P = j + 1 := (Nat.eq_zero_or_eq_succ_pred _).imp_right fun h => ⟨_, h⟩
  · exact ⟨0, mag, by omega, by have := (Nat.div_eq_zero_iff_lt hP).mp hlow; omega, .inl rfl⟩
  · refine ⟨j, P + mag % P, ?_, by have := Nat.mod_lt mag hP; omega, .inr (Nat.le_add_right _ _)⟩
    have := Nat.div_add_mod mag P
    rw [hj] at this
    linarith

/-- A greater magnitude is worth more. -/
theorem units_strictMono (F : FloatFormat) : StrictMono F.units := strictMono_nat_of_lt_succ fun mag => by
  obtain ⟨k, q, rfl, hq, hk⟩ := exists_encode F mag
  rw [Nat.add_assoc, units_encode hq.le hk, units_encode hq (by omega)]
  exact Nat.mul_lt_mul_of_pos_right (Nat.lt_succ_self q) (Nat.two_pow_pos k)

theorem units_zero (F : FloatFormat) : F.units 0 = 0 := by
  simp [FloatFormat.units]

/-! ### Rounding to nearest, ties to even -/

/-- The magnitude `r` is worth as near to `n` units as any, and is even where another value is as near (R133 (c)). -/
def NearestEven (F : FloatFormat) (r n : Nat) : Prop :=
  ∀ m, apart (F.units r) n ≤ apart (F.units m) n ∧
    (F.units m ≠ F.units r → apart (F.units r) n = apart (F.units m) n → r % 2 = 0)

theorem two_pow_fracBits_even (hp : 1 ≤ F.fracBits) : 2 ∣ 2 ^ F.fracBits := dvd_pow_self 2 (by omega)

/-- Rounding `n / 2^k` to nearest, ties to even, gives such a magnitude: the neighbours of `n` are those of the significands
`n / 2^k` and the next one. -/
theorem nearestEven_roundShift (hp : 1 ≤ F.fracBits) (hq : n / 2 ^ k < 2 * 2 ^ F.fracBits)
    (hk : k = 0 ∨ 2 ^ F.fracBits ≤ n / 2 ^ k) : NearestEven F (k * 2 ^ F.fracBits + roundShift n k) n := by
  intro m
  have hfloor := units_encode hq.le hk
  have hceil : F.units (k * 2 ^ F.fracBits + (n / 2 ^ k + 1)) = (n / 2 ^ k + 1) * 2 ^ k := units_encode hq (by omega)
  have hn : n / 2 ^ k * 2 ^ k + n % 2 ^ k = n := Nat.div_add_mod' n _
  have hrem : n % 2 ^ k < 2 ^ k := Nat.mod_lt _ (Nat.two_pow_pos k)
  have heven : 2 ∣ k * 2 ^ F.fracBits := Dvd.dvd.mul_left (two_pow_fracBits_even hp) k
  have hm : F.units m ≤ F.units (k * 2 ^ F.fracBits + n / 2 ^ k) ∨
      F.units (k * 2 ^ F.fracBits + (n / 2 ^ k + 1)) ≤ F.units m :=
    (Nat.lt_or_ge m (k * 2 ^ F.fracBits + (n / 2 ^ k + 1))).imp
      (fun h => (units_strictMono F).monotone (by omega)) (fun h => (units_strictMono F).monotone h)
  rw [Nat.succ_mul] at hceil
  unfold roundShift apart
  split <;> omega

/-- The rounding of the model in one line: the exponent step is what leaves a significand of the format's width, and a value below
the first step is exact. -/
theorem exists_round (he : 2 ≤ F.expBits) (n : Nat) :
    ∃ k, F.round n = min (k * 2 ^ F.fracBits + roundShift n k) F.infinity ∧
      n / 2 ^ k < 2 * 2 ^ F.fracBits ∧ (k = 0 ∨ 2 ^ F.fracBits ≤ n / 2 ^ k) := by
  unfold FloatFormat.round
  split
  · next hlt =>
    rw [Nat.pow_succ, Nat.mul_comm] at hlt
    have hexp : 2 ^ 2 ≤ 2 ^ F.expBits := Nat.pow_le_pow_right (by decide) he
    have hinf : 2 * 2 ^ F.fracBits ≤ F.infinity := Nat.mul_le_mul_right _ (by omega)
    refine ⟨0, ?_, by simpa using hlt, .inl rfl⟩
    simp [roundShift, Nat.mod_one]
    omega
  · next hge =>
    have hn : n ≠ 0 := fun h0 => hge (h0 ▸ Nat.two_pow_pos _)
    have hlog : F.fracBits + 1 ≤ Nat.log2 n := (Nat.le_log2 hn).mpr (Nat.le_of_not_lt hge)
    refine ⟨_, rfl, ?_, .inr ?_⟩
    · rw [Nat.div_lt_iff_lt_mul (Nat.two_pow_pos _), ← Nat.pow_succ', ← Nat.pow_add]
      exact Nat.lt_log2_self.trans_eq (by congr 1; omega)
    · rw [Nat.le_div_iff_mul_le (Nat.two_pow_pos _), ← Nat.pow_add]
      exact (Nat.log2_self_le hn).trans_eq' (by congr 1; omega)

/-- Where infinity counts as the next magnitude after the largest finite one, half a unit beyond the latter is where it is reached:
its pattern is even, that of the largest finite magnitude odd. -/
theorem infinity_le_iff (hp : 1 ≤ F.fracBits) (he : 1 ≤ F.expBits) (h : NearestEven F r n) :
    F.infinity ≤ r ↔ F.units (F.infinity - 1) + F.units F.infinity ≤ 2 * n := by
  have heven : 2 ∣ F.infinity := Dvd.dvd.mul_left (two_pow_fracBits_even hp) _
  have hexp : 2 ^ 1 ≤ 2 ^ F.expBits := Nat.pow_le_pow_right (by decide) he
  have hpos : 0 < F.infinity := Nat.mul_pos (by omega) (Nat.two_pow_pos _)
  have hlast : F.units (F.infinity - 1) < F.units F.infinity := units_strictMono F (by omega)
  have hnear := h (F.infinity - 1)
  have hinf := h F.infinity
  unfold apart at hnear hinf
  obtain hlt | rfl | hge : r < F.infinity - 1 ∨ r = F.infinity - 1 ∨ F.infinity ≤ r := by omega
  · have hr : F.units r < F.units (F.infinity - 1) := units_strictMono F hlt
    omega
  · omega
  · have hr : F.units F.infinity ≤ F.units r := (units_strictMono F).monotone hge
    omega

theorem round_le_infinity (he : 2 ≤ F.expBits) (n : Nat) : F.round n ≤ F.infinity := by
  obtain ⟨k, hround, -⟩ := exists_round he n
  exact hround ▸ Nat.min_le_right _ _

theorem round_lt_signBit (he : 2 ≤ F.expBits) (n : Nat) : F.round n < F.signBit :=
  (round_le_infinity he n).trans_lt (infinity_lt_signBit F)

/-- From half a unit beyond the largest finite magnitude on, rounding gives infinity (R133 (c)). -/
theorem round_eq_infinity (he : 2 ≤ F.expBits) (hp : 1 ≤ F.fracBits)
    (hn : F.units (F.infinity - 1) + F.units F.infinity ≤ 2 * n) : F.round n = F.infinity := by
  obtain ⟨k, hround, hq, hk⟩ := exists_round he n
  rw [hround, min_eq_right ((infinity_le_iff hp (by omega) (nearestEven_roundShift hp hq hk)).mpr hn)]

/-- Below that, rounding gives a nearest finite magnitude (R133 (c)). -/
theorem round_nearestEven (he : 2 ≤ F.expBits) (hp : 1 ≤ F.fracBits)
    (hn : 2 * n < F.units (F.infinity - 1) + F.units F.infinity) :
    F.round n < F.infinity ∧ NearestEven F (F.round n) n := by
  obtain ⟨k, hround, hq, hk⟩ := exists_round he n
  have hnear := nearestEven_roundShift hp hq hk
  have hlt : k * 2 ^ F.fracBits + roundShift n k < F.infinity := by
    by_contra hge
    exact absurd ((infinity_le_iff hp (by omega) hnear).mp (Nat.le_of_not_lt hge)) (by omega)
  rw [hround, min_eq_left hlt.le]
  exact ⟨hlt, hnear⟩

/-! ### The sum of two finite patterns -/

theorem value_signed (h : mag < F.signBit) :
    F.value (F.signed neg mag) = if neg then -(F.units mag : Int) else (F.units mag : Int) := by
  rw [FloatFormat.value, negative_signed h, magnitude_signed h]

/-- A nearest magnitude with the sign of a number is a nearest pattern to it: a pattern of the other sign is no nearer than zero. -/
theorem value_nearestEven {sum : Int} (hr : r < F.signBit) (h : NearestEven F r sum.natAbs) (v : Nat) :
    apart (F.value (F.signed (decide (sum < 0)) r)) sum ≤ apart (F.value v) sum ∧
      (F.value v ≠ F.value (F.signed (decide (sum < 0)) r) →
        apart (F.value (F.signed (decide (sum < 0)) r)) sum = apart (F.value v) sum → r % 2 = 0) := by
  have hzero := h 0
  have hmag := h (F.magnitude v)
  rw [units_zero] at hzero
  rw [value_signed hr, FloatFormat.value]
  unfold apart at *
  simp only [decide_eq_true_eq]
  split_ifs <;> omega

theorem add_eq_addFinite (hx : F.magnitude x < F.infinity) (hy : F.magnitude y < F.infinity) :
    F.add x y = some (F.addFinite x y) := by
  simp [FloatFormat.add, FloatFormat.isNaN, FloatFormat.isInf, hx.ne, hy.ne, hx.le, hy.le]

/-- An exact sum of zero is +0, or -0 where both operands are negative (R133 (d)). -/
theorem addFinite_of_zero (h : F.value x + F.value y = 0) :
    F.addFinite x y = F.signed (F.negative x && F.negative y) 0 := by
  simp [FloatFormat.addFinite, h]

/-- Every other exact sum is rounded and keeps its sign (R133 (c)). -/
theorem addFinite_of_ne_zero (h : F.value x + F.value y ≠ 0) :
    F.addFinite x y =
      F.signed (decide (F.value x + F.value y < 0)) (F.round (F.value x + F.value y).natAbs) := by
  simp [FloatFormat.addFinite, h]

theorem addFinite_lt (he : 2 ≤ F.expBits) (x y : Nat) : F.addFinite x y < 2 * F.signBit := by
  unfold FloatFormat.addFinite
  dsimp only
  split
  · exact signed_lt (signBit_pos F)
  · exact signed_lt (round_lt_signBit he _)

/-- Settles O35: the sum is the rounded magnitude of the exact sum with its sign. -/
theorem floatSumIsRoundedToNearestEven : Obligations.FloatSumIsRoundedToNearestEven := by
  rintro F he hp x y ⟨-, hx⟩ ⟨-, hy⟩
  refine ⟨_, add_eq_addFinite hx hy, addFinite_lt he x y, fun hzero => ?_, fun hne => ?_⟩
  · simp [addFinite_of_zero hzero, FloatFormat.signed]
  · have hr : F.round (F.value x + F.value y).natAbs < F.signBit := round_lt_signBit he _
    rw [addFinite_of_ne_zero hne, negative_signed hr, magnitude_signed hr]
    refine ⟨rfl, round_eq_infinity he hp, fun hsmall => ?_⟩
    obtain ⟨hfinite, hnear⟩ := round_nearestEven he hp hsmall
    exact ⟨⟨signed_lt hr, (magnitude_signed hr).trans_lt hfinite⟩, fun v _ => value_nearestEven hr hnear v⟩

/-! ### NaNs and infinities -/

theorem fraction_le_infinity (he : 1 ≤ F.expBits) : 2 ^ F.fracBits ≤ F.infinity := by
  have hexp : 2 ^ 1 ≤ 2 ^ F.expBits := Nat.pow_le_pow_right (by decide) he
  exact Nat.le_mul_of_pos_left _ (by omega)

/-- The NaN that the model falls back on, +infinity with the top fraction bit set, is less than the sign bit. -/
theorem quietNaN_lt_signBit (hp : 1 ≤ F.fracBits) : F.infinity + 2 ^ (F.fracBits - 1) < F.signBit := by
  rw [← infinity_add_eq_signBit]
  exact Nat.add_lt_add_left (Nat.pow_lt_pow_right (by decide) (by omega)) _

theorem isNaN_someNaN (hp : 1 ≤ F.fracBits) (free : Nat) : F.isNaN (F.someNaN free) = true := by
  unfold FloatFormat.someNaN
  split
  · assumption
  · rw [FloatFormat.isNaN, FloatFormat.magnitude, Nat.mod_eq_of_lt (quietNaN_lt_signBit hp)]
    exact decide_eq_true (Nat.lt_add_of_pos_right (Nat.two_pow_pos _))

theorem someNaN_lt (hp : 1 ≤ F.fracBits) {free : Nat} (h : free < 2 * F.signBit) : F.someNaN free < 2 * F.signBit := by
  have := quietNaN_lt_signBit hp
  unfold FloatFormat.someNaN
  split <;> omega

/-- An infinity is no NaN. -/
theorem isNaN_eq_false_of_isInf (h : F.isInf x = true) : F.isNaN x = false := by
  simp only [FloatFormat.isInf, FloatFormat.isNaN, decide_eq_true_eq, decide_eq_false_iff_not] at h ⊢
  omega

/-- The sum is some NaN exactly where an operand is one, or infinities of opposite signs meet (R133). -/
theorem add_eq_none_iff : F.add x y = none ↔ F.isNaN x = true ∨ F.isNaN y = true ∨
    (F.isInf x = true ∧ F.isInf y = true ∧ F.negative x ≠ F.negative y) := by
  unfold FloatFormat.add
  split_ifs with hnan hx hopposite hy
  · exact iff_of_true rfl (or_assoc.mp (.inl ((Bool.or_eq_true _ _).mp hnan)))
  all_goals simp_all

/-- An infinity and a finite number, or the same infinity, give that infinity (R133 (b)). -/
theorem add_of_isInf_left (hx : F.isInf x = true) (hy : F.isNaN y = false)
    (hsame : F.isInf y = true → F.negative x = F.negative y) : F.add x y = some x := by
  have hmeet : (F.isInf y && (F.negative x != F.negative y)) = false := by simpa using hsame
  simp [FloatFormat.add, isNaN_eq_false_of_isInf hx, hx, hy, hmeet]

/-- Two infinities of one sign are the same pattern. -/
theorem eq_of_isInf (hx : F.isInf x = true) (hy : F.isInf y = true) (hxlt : x < 2 * F.signBit) (hylt : y < 2 * F.signBit)
    (hsign : F.negative x = F.negative y) : x = y := by
  simp only [FloatFormat.isInf, decide_eq_true_eq] at hx hy
  rw [← signed_negative_magnitude hxlt, ← signed_negative_magnitude hylt, hx, hy, hsign]

theorem add_of_isInf_right (hx : F.isInf x = true) (hy : F.isNaN y = false) (hxlt : x < 2 * F.signBit)
    (hylt : y < 2 * F.signBit) (hsame : F.isInf y = true → F.negative x = F.negative y) : F.add y x = some x := by
  cases hinf : F.isInf y with
  | true =>
    obtain rfl := eq_of_isInf hx hinf hxlt hylt (hsame hinf)
    exact add_of_isInf_left hx hy hsame
  | false => simp [FloatFormat.add, isNaN_eq_false_of_isInf hx, hx, hy, hinf]

/-- A sum of patterns of the format is one. -/
theorem add_lt (he : 2 ≤ F.expBits) (hx : x < 2 * F.signBit) (hy : y < 2 * F.signBit) (h : F.add x y = some z) :
    z < 2 * F.signBit := by
  have hsum := addFinite_lt he x y
  unfold FloatFormat.add at h
  split_ifs at h <;> cases h <;> assumption

/-! ### Flushing -/

theorem flush_of_isSubnormal (h : F.isSubnormal x = true) : F.flush x = F.signed (F.negative x) 0 := if_pos h

theorem flush_of_not_isSubnormal (h : F.isSubnormal x = false) : F.flush x = x := if_neg (by simp [h])

/-- A zero of either sign has no magnitude. -/
theorem magnitude_signed_zero : F.magnitude (F.signed neg 0) = 0 := magnitude_signed (signBit_pos F)

/-- What has been flushed is not subnormal (R133 (e)). -/
theorem isSubnormal_flush (F : FloatFormat) (x : Nat) : F.isSubnormal (F.flush x) = false := by
  cases h : F.isSubnormal x with
  | true => simp [flush_of_isSubnormal h, FloatFormat.isSubnormal, magnitude_signed_zero]
  | false => rwa [flush_of_not_isSubnormal h]

theorem flush_flush (F : FloatFormat) (x : Nat) : F.flush (F.flush x) = F.flush x :=
  flush_of_not_isSubnormal (isSubnormal_flush F x)

theorem flush_lt (hx : x < 2 * F.signBit) : F.flush x < 2 * F.signBit := by
  unfold FloatFormat.flush
  split
  · exact signed_lt (signBit_pos F)
  · exact hx

/-- A NaN is not subnormal. -/
theorem isSubnormal_eq_false_of_isNaN (he : 1 ≤ F.expBits) (h : F.isNaN x = true) : F.isSubnormal x = false := by
  have := fraction_le_infinity he
  simp only [FloatFormat.isNaN, FloatFormat.isSubnormal, decide_eq_true_eq, Bool.and_eq_false_iff, decide_eq_false_iff_not]
    at h ⊢
  omega

/-- Flushing makes no NaN. -/
theorem isNaN_flush (h : F.isNaN x = false) : F.isNaN (F.flush x) = false := by
  cases hsub : F.isSubnormal x with
  | true => simp [flush_of_isSubnormal hsub, FloatFormat.isNaN, magnitude_signed_zero]
  | false => rwa [flush_of_not_isSubnormal hsub]

/-- A subnormal is flushed to a finite pattern. -/
theorem finite_flush_of_isSubnormal (he : 1 ≤ F.expBits) (h : F.isSubnormal x = true) :
    F.isNaN (F.flush x) = false ∧ F.isInf (F.flush x) = false := by
  have hpos : 0 < F.infinity := (Nat.two_pow_pos _).trans_le (fraction_le_infinity he)
  simp [flush_of_isSubnormal h, FloatFormat.isNaN, FloatFormat.isInf, magnitude_signed_zero, hpos.ne]

/-- The flushed sum is some NaN exactly where the sum of the flushed operands is. -/
theorem addFlushed_eq_none_iff : F.addFlushed x y = none ↔ F.add (F.flush x) (F.flush y) = none := Option.map_eq_none_iff

theorem addFlushed_lt (he : 2 ≤ F.expBits) (hx : x < 2 * F.signBit) (hy : y < 2 * F.signBit)
    (h : F.addFlushed x y = some z) : z < 2 * F.signBit := by
  obtain ⟨sum, hsum, rfl⟩ := Option.map_eq_some_iff.mp h
  exact flush_lt (add_lt he (flush_lt hx) (flush_lt hy) hsum)

/-! ### The three additions of NUM -/

/-- A sum or else some NaN, kept in as many bits as the format has, is itself. -/
theorem toNat_sum_or_someNaN {w : Nat} (hw : 2 * F.signBit = 2 ^ w) (hp : 1 ≤ F.fracBits) {sum : Option Nat}
    (hsum : ∀ z, sum = some z → z < 2 * F.signBit) (free : BitVec w) :
    (BitVec.ofNat w (sum.getD (F.someNaN free.toNat))).toNat = sum.getD (F.someNaN free.toNat) := by
  rw [BitVec.toNat_ofNat, ← hw, Nat.mod_eq_of_lt]
  cases sum with
  | some z => exact hsum z rfl
  | none => exact someNaN_lt hp (hw ▸ free.isLt)

theorem fadd16_toNat (a b : Half) : (fadd16 a b).toNat =
    (binary16.add a.toNat b.toNat).getD (binary16.someNaN (Config.nan16 a b).toNat) :=
  toNat_sum_or_someNaN rfl (by decide) (fun _ => add_lt (by decide) a.isLt b.isLt) _

theorem fadd32_toNat (a b : Word) : (fadd32 a b).toNat =
    (binary32.addFlushed a.toNat b.toNat).getD (binary32.someNaN (Config.nan32 a b).toNat) :=
  toNat_sum_or_someNaN rfl (by decide) (fun _ => addFlushed_lt (by decide) a.isLt b.isLt) _

theorem fadd64_toNat (a b : DWord) : (fadd64 a b).toNat =
    (binary64.add a.toNat b.toNat).getD (binary64.someNaN (Config.nan64 a b).toNat) :=
  toNat_sum_or_someNaN rfl (by decide) (fun _ => add_lt (by decide) a.isLt b.isLt) _

/-- Settles O36: the bits of each addition are the sum of its format, or else some NaN; which of the two, and infinities, are laws of
every format. -/
theorem numAdditionsAreTheFormatSums : Obligations.NumAdditionsAreTheFormatSums := by
  refine ⟨fun a b => ?_, fun a b => ?_, fun a b => ?_, fun F _ x y hx hy =>
    ⟨add_eq_none_iff, fun hinf hnan hsame => ⟨add_of_isInf_left hinf hnan hsame, add_of_isInf_right hinf hnan hx hy hsame⟩⟩⟩
  · split
    · next z hsum => rw [fadd16_toNat, hsum, Option.getD_some]
    · next hsum => rw [fadd16_toNat, hsum, Option.getD_none, isNaN_someNaN (by decide)]
  · split
    · next z hsum => rw [fadd32_toNat, FloatFormat.addFlushed, hsum, Option.map_some, Option.getD_some]
    · next hsum => rw [fadd32_toNat, addFlushed_eq_none_iff.mpr hsum, Option.getD_none, isNaN_someNaN (by decide)]
  · split
    · next z hsum => rw [fadd64_toNat, hsum, Option.getD_some]
    · next hsum => rw [fadd64_toNat, hsum, Option.getD_none, isNaN_someNaN (by decide)]

/-- The sign bit alone of a subnormal word is that word flushed. -/
theorem toNat_and_signBit {a : Word} (h : binary32.isSubnormal a.toNat = true) :
    (a &&& 0x80000000#32).toNat = binary32.flush a.toNat := by
  have hsign : binary32.negative a.toNat = a.getLsbD 31 := (Nat.testBit_eq_decide_div_mod_eq ..).symm
  rw [flush_of_isSubnormal h, hsign, show 0x80000000#32 = BitVec.twoPow 32 31 from rfl, BitVec.and_twoPow]
  cases a.getLsbD 31 <;> rfl

/-- Where a number results, `fadd32` depends on the flushed operands alone. -/
theorem fadd32_congr {a b a' b' : Word} (ha : binary32.flush a.toNat = binary32.flush a'.toNat)
    (hb : binary32.flush b.toNat = binary32.flush b'.toNat) (hsum : binary32.addFlushed a.toNat b.toNat ≠ none) :
    fadd32 a b = fadd32 a' b' := by
  have hsame : binary32.addFlushed a.toNat b.toNat = binary32.addFlushed a'.toNat b'.toNat := by
    simp only [FloatFormat.addFlushed, ha, hb]
  obtain ⟨z, hz⟩ := Option.ne_none_iff_exists'.mp hsum
  rw [fadd32, fadd32, ← hsame, hz, Option.getD_some, Option.getD_some]

/-- Settles O37: the result is flushed or a NaN, and a subnormal operand gives a number with every other operand that is no NaN. -/
theorem f32AdditionFlushesSubnormals : Obligations.F32AdditionFlushesSubnormals := by
  refine ⟨fun a b => ?_, fun a b ha hb => ?_⟩
  · rw [fadd32_toNat, FloatFormat.addFlushed]
    cases binary32.add (binary32.flush a.toNat) (binary32.flush b.toNat) with
    | some z => exact isSubnormal_flush _ z
    | none => exact isSubnormal_eq_false_of_isNaN (by decide) (isNaN_someNaN (by decide) _)
  · have hflush : binary32.flush a.toNat = binary32.flush (a &&& 0x80000000#32).toNat := by
      rw [toNat_and_signBit ha, flush_flush]
    obtain ⟨hnan, hinf⟩ := finite_flush_of_isSubnormal (by decide) ha
    have hnan' := isNaN_flush hb
    refine ⟨fadd32_congr hflush rfl ?_, fadd32_congr rfl hflush ?_⟩ <;>
      simp [addFlushed_eq_none_iff, add_eq_none_iff, hnan, hinf, hnan']

/-! ### Minimum and maximum of halves -/

/-- The order of the values is that of the keys: a greater magnitude is worth more (R134). -/
theorem halfKey_lt_of_value_lt {a b : Half} (h : binary16.value a.toNat < binary16.value b.toNat) : halfKey a < halfKey b := by
  have hmono := units_strictMono binary16
  have hab := hmono.lt_iff_lt (a := binary16.magnitude a.toNat) (b := binary16.magnitude b.toNat)
  have hba := hmono.lt_iff_lt (a := binary16.magnitude b.toNat) (b := binary16.magnitude a.toNat)
  have hazero := hmono.lt_iff_lt (a := 0) (b := binary16.magnitude a.toNat)
  have hbzero := hmono.lt_iff_lt (a := 0) (b := binary16.magnitude b.toNat)
  rw [units_zero] at hazero hbzero
  unfold FloatFormat.value at h
  unfold halfKey
  split_ifs at h ⊢ <;> omega

/-- Settles O38: on halves that are no NaN both functions choose by the keys. -/
theorem halfMinMaxOrderNumerically : Obligations.HalfMinMaxOrderNumerically := by
  intro a b ha hb
  refine ⟨fun hlt => ?_, by simp [fmin16, ha], by simp [fmax16, ha]⟩
  have hkey := halfKey_lt_of_value_lt hlt
  refine ⟨?_, ?_, ?_, ?_⟩ <;> simp [fmin16, fmax16, ha, hb, hkey, hkey.not_gt]

/-- Settles O39: each sum is evaluated; no free value is read, since every sum is a number. -/
theorem floatAdditionVectors : Obligations.FloatAdditionVectors := by
  unfold Obligations.FloatAdditionVectors
  decide +kernel

end Sys2Proof.Proofs
end

section
/-!
PROOFS. The statements of 42_atom_cas.md: what CAS stores and returns, in its sizes and forms, and which registers a well-formed CAS
names.
-/

namespace Sys2Proof.Proofs

open Sys2Proof.Machine Sys2Proof.Claims

variable {I : AtomInstr} {i : Instr} {numGpr : Nat} {spa : SpaVersion}

/-! ### What CAS stores and returns -/

/-- The operation function of CAS: Rc where memory equals Rb, else what memory holds (R141). -/
theorem aluCas_eq_ite {w : Nat} : aluCas (w := w) = fun m b r => if m = b then r else m := rfl

/-- A CAS on 4 bytes stores Rc where the word equals Rb, leaves the word elsewhere, and returns the old word (R140). -/
theorem stores32_of_exec_aluCas (hb : i.record.sz.bytes = 4) (hf : ∀ s, exec i s = atom32 i aluCas s) :
    Stores32 i fun m b r => if m = b then r else m :=
  aluCas_eq_ite ▸ stores32_of_exec hb hf

/-- The same on 8 bytes, with pairs. -/
theorem stores64_of_exec_aluCas (hb : i.record.sz.bytes = 8) (hf : ∀ s, exec i s = atom64 i aluCas s) :
    Stores64 i fun m b r => if m = b then r else m :=
  aluCas_eq_ite ▸ stores64_of_exec hb hf

/-- Settles O12: `aluCas` is the operation function of the three sizes, each in the three forms. -/
theorem casStoresRcWhenEqual : Obligations.CasStoresRcWhenEqual :=
  ⟨fun c rd ra imm rb rc => stores32_of_exec_aluCas rfl (exec_casU32Ri c rd ra imm rb rc),
    fun c rd imm rb rc => stores32_of_exec_aluCas rfl (exec_casU32Abs c rd imm rb rc),
    fun c ps rd ra rb rc => stores32_of_exec_aluCas rfl (exec_casU32Sp c ps rd ra rb rc),
    fun c rd ra imm rb rc => stores32_of_exec_aluCas rfl (exec_casS32Ri c rd ra imm rb rc),
    fun c rd imm rb rc => stores32_of_exec_aluCas rfl (exec_casS32Abs c rd imm rb rc),
    fun c ps rd ra rb rc => stores32_of_exec_aluCas rfl (exec_casS32Sp c ps rd ra rb rc),
    fun c rd ra imm rb rc => stores64_of_exec_aluCas rfl (exec_casU64Ri c rd ra imm rb rc),
    fun c rd imm rb rc => stores64_of_exec_aluCas rfl (exec_casU64Abs c rd imm rb rc),
    fun c ps rd ra rb rc => stores64_of_exec_aluCas rfl (exec_casU64Sp c ps rd ra rb rc)⟩

/-! ### The registers of a well-formed CAS -/

/-- A check that R75 makes of CAS alone holds in a well-formed CAS. -/
theorem casCheck_of_wf {ok : Bool} {why : IllFormed} (hop : I.op = .cas) (h : I.wf numGpr spa = true)
    (hcheck : (decide (I.op ≠ .cas) || ok, why) ∈ I.checks numGpr spa) : ok = true := by
  simpa [hop] using List.all_eq_true.mp h _ hcheck

/-- The compare value of a well-formed CAS begins at a numbered register that is a multiple of twice the operand's registers
(R144, R145). -/
theorem rb_of_wf_cas (hop : I.op = .cas) (h : I.wf numGpr spa = true) :
    ∃ n, I.rb = .r n ∧ n % (2 * I.sz.registers) = 0 := by
  have hnumbered : decide (I.rb ≠ .rz) = true :=
    casCheck_of_wf (why := .casCompareRz) hop h (by simp [AtomInstr.checks])
  have haligned : I.compareAligned = true :=
    casCheck_of_wf (why := .casCompareUnaligned) hop h (by simp [AtomInstr.checks])
  cases hrb : I.rb with
  | rz => exact absurd hrb (of_decide_eq_true hnumbered)
  | r n => exact ⟨n, rfl, by simpa [AtomInstr.compareAligned, hrb] using haligned⟩

/-- The swap value of a well-formed CAS begins at the register after the compare value, which is not RZ (R144 to R146). -/
theorem rc_of_wf_cas (hop : I.op = .cas) (h : I.wf numGpr spa = true) {n : Nat} (hrb : I.rb = .r n) :
    I.rc = .r (n + I.sz.registers) := by
  have hnumbered : decide (I.rc ≠ .rz) = true :=
    casCheck_of_wf (why := .casSwapRz) hop h (by simp [AtomInstr.checks])
  have hnext : I.swapNext = true :=
    casCheck_of_wf (why := .casSwapNotNext) hop h (by simp [AtomInstr.checks])
  cases hrc : I.rc with
  | rz => exact absurd hrc (of_decide_eq_true hnumbered)
  | r k => simpa [AtomInstr.swapNext, hrb, hrc] using hnext

/-- Settles O22: the alignment and the distance of the checks, with the number of registers that each size takes. -/
theorem casRegistersAreAlignedAndConsecutive : Obligations.CasRegistersAreAlignedAndConsecutive := by
  intro i numGpr spa hop hwf
  obtain ⟨n, hrb, haligned⟩ := rb_of_wf_cas hop hwf
  have hrc := rc_of_wf_cas hop hwf hrb
  refine ⟨n, hrb, ?_⟩
  obtain hbytes | hbytes := bytes_eq_four_or_eight i.record.sz <;> rw [Sz.registers, hbytes] at haligned hrc
  · exact .inl ⟨hbytes, haligned, hrc⟩
  · exact .inr ⟨hbytes, haligned, hrc⟩

end Sys2Proof.Proofs
end

section
/-!
PROOFS. The statement of 43_atom_sparse.md about accesses to sparse pages: the mark of a page, and the refusal that follows it.
-/

namespace Sys2Proof.Proofs

open Sys2Proof.Machine Sys2Proof.Claims

variable {L : Launch} {ea : DWord}

/-- The page of an address is sparse exactly where its number is among those marked (R18, R151). -/
theorem sparseAt_iff : sparseAt L ea = true ↔ ea.toNat / L.pageSize ∈ L.sparsePages :=
  List.contains_iff_mem

/-- Settles O20: no error applies, so the shared execution comes to the mark of the page, before the event of any form. -/
theorem sparsePageIsRefused : Obligations.SparsePageIsRefused := by
  intro i s th hth hwf ha hnone hmarked
  obtain ⟨event, hexec⟩ := exec_eq_execChecked i s
  have herrors : applicableErrors s.launch (effectiveAddress i.record th.regs) i.record.sz.bytes = [] :=
    (checksPassWhenNoErrorApplies _ _ _).1.mpr hnone
  exact hexec.trans (execChecked_sparse hwf hth ha herrors (sparseAt_iff.mpr hmarked))

end Sys2Proof.Proofs
end

section
/-!
PROOFS. The statements of 60_exceptions.md: which threads step, that a step touches one of them only, and that an error is precise and
ends its thread.
-/

namespace Sys2Proof.Proofs

open Sys2Proof.Machine Sys2Proof.Claims

variable {i : Instr} {L : Launch} {s s' : State} {th th' : Thread}

/-! ### The threads that can step -/

/-- A thread can step exactly where it has not faulted and has an instruction at its pc (R166, R172, R189). -/
theorem canStep_iff : canStep L th = true ↔ th.fault = none ∧ (fetchText L th.pc).isSome = true := by
  simp [canStep]

/-- A thread cannot step exactly where it has faulted or has no instruction at its pc. -/
theorem not_canStep_iff : ¬canStep L th = true ↔ th.fault ≠ none ∨ fetchText L th.pc = none := by
  rw [canStep_iff, Decidable.not_and_iff_not_or_not, Option.not_isSome_iff_eq_none]

/-- No thread can step exactly where each has faulted or has no instruction at its pc. -/
theorem runnable_eq_nil_iff : runnable s = [] ↔ ∀ th ∈ s.threads, th.fault ≠ none ∨ fetchText s.launch th.pc = none := by
  simp only [List.eq_nil_iff_forall_not_mem, mem_runnable, ← not_canStep_iff]
  constructor
  · intro hnone th hth hcan
    obtain ⟨t, ht⟩ := List.mem_iff_getElem?.mp hth
    exact hnone t ⟨th, ht, hcan⟩
  · rintro hnone t ⟨th, ht, hcan⟩
    exact hnone th (List.mem_of_getElem? ht) hcan

/-- Every number picks a thread, unless there is none to pick. -/
theorem pickThread_eq_none_iff {ts : List Nat} {k : Nat} : pickThread ts k = none ↔ ts = [] := by
  unfold pickThread
  split
  · simp
  · rw [List.getElem?_eq_none_iff]
    constructor
    · intro hle
      by_contra hne
      exact hle.not_gt (Nat.mod_lt k (List.length_pos_iff.mpr hne))
    · rintro rfl
      simp

/-- Without a thread that steps the machine stops (R172, R189). -/
theorem step_of_steppingThread_none (h : steppingThread s = none) : step s = .fault .noRunnableThread := by
  unfold steppingThread at h
  simp only [step, stepThreads, h]

/-- Settles O44: the thread that steps is picked from those that can, and one is picked unless there is none. -/
theorem onlyThreadsThatCanStepDo : Obligations.OnlyThreadsThatCanStepDo := by
  refine fun s => ⟨fun t ht => ?_, pickThread_eq_none_iff.trans runnable_eq_nil_iff, step_of_steppingThread_none⟩
  obtain ⟨th, hth, hcan⟩ := mem_runnable.mp (pickThread_mem ht)
  exact ⟨th, hth, canStep_iff.mp hcan⟩

/-! ### What a step does to the thread that steps -/

/-- From `s` to `s'`, where the thread `th` becomes `th'`, nothing of the thread but its fault record changes, and no byte of memory
(R166). -/
def OnlyFaultChanges (s s' : State) (th th' : Thread) : Prop :=
  th' = { th with fault := th'.fault } ∧ s'.mem = s.mem

/-- An instruction replaces the executing thread, and either keeps its fault record or changes that alone. -/
theorem exec_next_fault (h : exec i s = .next s') : ∃ th th', s.thread = some th ∧ s'.thread = some th' ∧
    s'.threads = s.threads.set s.cur th' ∧ (th'.fault = th.fault ∨ OnlyFaultChanges s s' th th') := by
  obtain ⟨th, hth, rfl | ⟨e, es, rfl⟩ | ⟨-, regs, mem, rfl, -, -⟩⟩ := exec_next_performs h
  · exact ⟨th, _, hth, setThread_thread hth _, rfl, .inl rfl⟩
  · exact ⟨th, _, hth, setThread_thread hth _, rfl, .inr ⟨rfl, rfl⟩⟩
  · exact ⟨th, _, hth, setThread_thread (s := s.setMem mem) hth _, rfl, .inl rfl⟩

/-- From `s` to `s'` the thread `th`, which has not faulted, becomes `th'`. If that has faulted, the error is precise: no later event
of the thread has taken effect, and the fault record alone has changed (R167). -/
structure StepsPrecisely (s s' : State) (th th' : Thread) : Prop where
  notFaulted : th.fault = none
  precise : th'.fault ≠ none → th.early = [] ∧ OnlyFaultChanges s s' th th'

/-- A step that sets no fault record is precise. -/
theorem stepsPrecisely_of_fault_none (hfault : th.fault = none) (hfault' : th'.fault = none) : StepsPrecisely s s' th th' :=
  ⟨hfault, fun hset => absurd hfault' hset⟩

/-- A thread that goes on at its pc steps precisely: an instruction that raises an error behind an event ahead of its turn does not go
on. -/
theorem goOn_next_precise (hth : s.thread = some th) (hfault : th.fault = none) (h : goOn s th = .next s') :
    ∃ th', s'.threads = s.threads.set s.cur th' ∧ StepsPrecisely s s' th th' := by
  obtain ⟨e, -, rfl⟩ | ⟨w, i, -, -, -, hexec, hturn⟩ := goOn_next h
  · exact ⟨_, rfl, stepsPrecisely_of_fault_none hfault ((settle_fault ..).trans hfault)⟩
  · obtain ⟨th₀, th', hth₀, hth', hset, hcase⟩ := exec_next_fault hexec
    obtain rfl : th₀ = th := Option.some.inj (hth₀.symm.trans hth)
    refine ⟨th', hset, ?_⟩
    obtain hkept | halone := hcase
    · exact stepsPrecisely_of_fault_none hfault (hkept.trans hfault)
    · obtain hearly | hbehind := hturn
      · exact ⟨hfault, fun _ => ⟨hearly, halone⟩⟩
      · obtain ⟨-, th₁, hth₁, hnone, -⟩ := execBehind_next hbehind
        obtain rfl : th₁ = th' := Option.some.inj (hth₁.symm.trans hth')
        exact stepsPrecisely_of_fault_none hfault hnone

/-- Every step replaces the thread that steps, and that thread alone, precisely (R166, R167, R172). -/
theorem step_next_precise (h : step s = .next s') : ∃ t th th', steppingThread s = some t ∧ s.threads[t]? = some th ∧
    s'.threads = s.threads.set t th' ∧ StepsPrecisely s s' th th' := by
  obtain ⟨t, th, hstepping, hth, hcan, hcase⟩ := step_next h
  have hfault : th.fault = none := (canStep_iff.mp hcan).1
  obtain hgo | ⟨k, v, i, s₁, done, -, -, -, -, -, -, rfl⟩ := hcase
  · obtain ⟨th', hset, hnot, hprecise⟩ := goOn_next_precise ((runAs_thread s t).trans hth) hfault hgo
    rw [runAs_threads, runAs_cur] at hset
    exact ⟨t, th, th', hstepping, hth, hset, hnot, by simpa [OnlyFaultChanges] using hprecise⟩
  · exact ⟨t, th, { th with early := th.early ++ [earlyOf i v.thread done] }, hstepping, hth, by simp,
      stepsPrecisely_of_fault_none hfault hfault⟩

/-- Settles O45: the list of threads is that before the step with one entry replaced, that of the thread that steps. -/
theorem stepTouchesOneThreadOnly : Obligations.StepTouchesOneThreadOnly := by
  intro s s' h
  obtain ⟨t, th, th', hstepping, -, hset, -⟩ := step_next_precise h
  rw [hset]
  exact ⟨List.length_set, t, hstepping, fun u hu => List.getElem?_set_ne (Ne.symm hu)⟩

/-! ### A thread with a fault recorded -/

/-- A step leaves a thread as it is, or steps it precisely. -/
theorem step_next_same_or_precise {u : Nat} (h : step s = .next s') (hth : s.threads[u]? = some th)
    (hth' : s'.threads[u]? = some th') : th' = th ∨ StepsPrecisely s s' th th' := by
  obtain ⟨t, th₀, th₁, -, ht, hset, hsteps⟩ := step_next_precise h
  rw [hset] at hth'
  by_cases htu : t = u
  · subst htu
    obtain rfl : th₀ = th := Option.some.inj (ht.symm.trans hth)
    rw [List.getElem?_set_self (List.getElem?_eq_some_iff.mp ht).1] at hth'
    obtain rfl : th₁ = th' := Option.some.inj hth'
    exact .inr hsteps
  · rw [List.getElem?_set_ne htu, hth] at hth'
    exact .inl (Option.some.inj hth').symm

/-- No step changes a thread whose fault record is set (R166). -/
theorem step_next_faulted {u : Nat} (h : step s = .next s') (hth : s.threads[u]? = some th) (hfaulted : th.fault ≠ none) :
    s'.threads[u]? = some th := by
  obtain ⟨t, th₀, th₁, -, ht, hset, hnot, -⟩ := step_next_precise h
  have htu : t ≠ u := by
    rintro rfl
    obtain rfl : th₀ = th := Option.some.inj (ht.symm.trans hth)
    exact hfaulted hnot
  rw [hset, List.getElem?_set_ne htu, hth]

/-- Settles O46: a thread is as it was or stepped precisely, and a precise step sets a fault record only where no event is ahead of its
turn. -/
theorem faultedThreadNeverChanges : Obligations.FaultedThreadNeverChanges := by
  refine ⟨fun s s' t th h => step_next_faulted h, ?_, ?_⟩
  · intro s s' t th th' h hth hth' hfault hfault'
    obtain rfl | hsteps := step_next_same_or_precise h hth hth'
    · exact absurd hfault hfault'
    · exact hsteps.precise hfault'
  · intro s s' h hnone th' hmem hfault'
    obtain ⟨t, th, th₁, -, -, hset, hsteps⟩ := step_next_precise h
    rw [hset] at hmem
    obtain hmem | rfl := List.mem_or_eq_of_mem_set hmem
    · exact hnone th' hmem hfault'
    · obtain ⟨hearly, hsame, -⟩ := hsteps.precise hfault'
      rw [hsame]
      exact hearly

end Sys2Proof.Proofs
end

section
/-!
PROOFS. The statements of 70_reset_and_hazards.md: the state after reset is canonical, and no rule of execution reads the opex
annotations.
-/

namespace Sys2Proof.Proofs

open Sys2Proof.Machine Sys2Proof.Claims

variable {i j : Instr} {I : AtomInstr} {o : Opex} {s : State} {th : Thread} {ea : DWord}

/-! ### The state after reset -/

/-- The registers of a thread at launch are canonical: none has been written. -/
theorem threadReset_wf : Thread.reset.wf := storeWf_nil

/-- Settles O51: memory at reset is empty, and the one thread is `Thread.reset`. -/
theorem resetIsCanonical : Obligations.ResetIsCanonical := by
  refine ⟨storeWf_nil, fun th hth => ?_⟩
  obtain rfl : th = Thread.reset := List.mem_singleton.mp hth
  exact threadReset_wf

/-! ### What reads the record of an instruction reads nothing of its opex -/

/-- The record with other opex annotations. -/
def withOpex (I : AtomInstr) (o : Opex) : AtomInstr := { I with common := { I.common with opex := o } }

theorem firstProblem_withOpex (numGpr : Nat) (spa : SpaVersion) :
    (withOpex I o).firstProblem numGpr spa = I.firstProblem numGpr spa := rfl

theorem active_withOpex (L : Launch) : active L th (withOpex I o) = active L th I := rfl

theorem effectiveAddress_withOpex (regs : Store 32) : effectiveAddress (withOpex I o) regs = effectiveAddress I regs := rfl

theorem sz_withOpex : (withOpex I o).sz = I.sz := rfl

/-- The shared execution does not depend on the opex, up to the event (R80, R183). The last `rfl` is for the decision
procedures of the two tests, in which the rewriting leaves the record as it was. -/
theorem execChecked_withOpex (event : Thread → DWord → Out) : execChecked (withOpex I o) s event = execChecked I s event := by
  simp only [execChecked, firstProblem_withOpex, active_withOpex, effectiveAddress_withOpex, sz_withOpex]
  rfl

/-- Nor does the event on 4 bytes. -/
theorem perform32_withOpex (f : Word → Word → Word → Word) : perform32 (withOpex I o) f s th ea = perform32 I f s th ea := rfl

/-- Nor does the event on 8 bytes. -/
theorem perform64_withOpex (f : DWord → DWord → DWord → DWord) : perform64 (withOpex I o) f s th ea = perform64 I f s th ea := rfl

/-! ### Instructions that differ in their opex alone -/

/-- The meanings of the two instructions are the shared execution with one operation function, or with the refusal of SAFEADD. -/
inductive SameOperation (i j : Instr) : Prop where
  | word (f : Word → Word → Word → Word) (hi : ∀ s, exec i s = atom32 i f s) (hj : ∀ s, exec j s = atom32 j f s)
  | doubleword (f : DWord → DWord → DWord → DWord) (hi : ∀ s, exec i s = atom64 i f s) (hj : ∀ s, exec j s = atom64 j f s)
  | refused (hi : ∀ s, exec i s = execChecked i.record s fun _ _ => .refused .safeAddFormula)
      (hj : ∀ s, exec j s = execChecked j.record s fun _ _ => .refused .safeAddFormula)

/-- With one operation, and with records that differ in the opex alone, two instructions have one outcome. -/
theorem exec_eq_of_sameOperation (hsame : SameOperation i j) (hrecord : j.record = withOpex i.record o) (s : State) :
    exec j s = exec i s := by
  cases hsame with
  | word f hi hj => simp only [hi, hj, atom32, hrecord, execChecked_withOpex, perform32_withOpex]
  | doubleword f hi hj => simp only [hi, hj, atom64, hrecord, execChecked_withOpex, perform64_withOpex]
  | refused hi hj => rw [hi, hj, hrecord, execChecked_withOpex]

/-- The record of an instruction with other opex annotations is that of an instruction of the same row of the opcode table (R74):
the sizes of 8 bytes, then SAFEADD, then the sizes of 4 bytes. -/
theorem toInstr?_withOpex (i : Instr) (o : Opex) :
    ∃ j, (withOpex i.record o).toInstr? = some j ∧ j.record = withOpex i.record o ∧ SameOperation i j := by
  cases i with
  | addU64Ri | addU64Abs | addU64Sp | addF64Ri | addF64Abs | addF64Sp | minU64Ri | minU64Abs | minU64Sp
  | minS64Ri | minS64Abs | minS64Sp | maxU64Ri | maxU64Abs | maxU64Sp | maxS64Ri | maxS64Abs | maxS64Sp
  | andU64Ri | andU64Abs | andU64Sp | orU64Ri | orU64Abs | orU64Sp | xorU64Ri | xorU64Abs | xorU64Sp
  | exchU64Ri | exchU64Abs | exchU64Sp | casU64Ri | casU64Abs | casU64Sp =>
    exact ⟨_, rfl, rfl, .doubleword _ (fun _ => rfl) (fun _ => rfl)⟩
  | safeAddU64Ri | safeAddU64Abs | safeAddU64Sp => exact ⟨_, rfl, rfl, .refused (fun _ => rfl) (fun _ => rfl)⟩
  | _ => exact ⟨_, rfl, rfl, .word _ (fun _ => rfl) (fun _ => rfl)⟩

/-- Settles O25: the other instruction is of the same row, and nothing that its row reads of the record is the opex. -/
theorem opexHasNoEffect : Obligations.OpexHasNoEffect := by
  intro i j o s hj
  obtain ⟨j', hj', hrecord, hsame⟩ := toInstr?_withOpex i o
  obtain rfl : j' = j := Option.some.inj (hj'.symm.trans hj)
  exact exec_eq_of_sameOperation hsame hrecord s

end Sys2Proof.Proofs
end
